-- ==== Sys2Proof/Word.lean ====
section
/-! DEFINITION. The two sizes of value the 8085A handles (spec 00_scope.md R5, R7): bytes and 16-bit words. All values
are unsigned bit vectors; no instruction sign-extends. -/

namespace Sys2Proof

/-- The addressable unit, the data bus and the 8-bit registers (R5). -/
abbrev Byte := BitVec 8

/-- Addresses, the program counter, the stack pointer and the register pairs (R5). -/
abbrev Word := BitVec 16

end Sys2Proof
end

