-- ==== Sys2Proof/Machine/Bits.lean ====
section
/-! DEFINITION. Byte order and bit packing, once for the whole model (spec 00_scope.md R7, 20_memory.md R51). -/

namespace Sys2Proof

/-- `v[7:0]`, the low-order byte (R7). -/
def loByte (v : Word) : Byte := v.extractLsb' 0 8

/-- `v[15:8]`, the high-order byte (R7). -/
def hiByte (v : Word) : Byte := v.extractLsb' 8 8

/-- `hi ++ lo` (R7): the order of every 16-bit value built from two bytes. -/
def joinBytes (hi lo : Byte) : Word := hi ++ lo

/-- A byte from its bits 7 down to 0. -/
def packByte (b7 b6 b5 b4 b3 b2 b1 b0 : Bool) : Byte :=
  BitVec.ofNat 8 (128 * b7.toNat + 64 * b6.toNat + 32 * b5.toNat + 16 * b4.toNat
    + 8 * b3.toNat + 4 * b2.toNat + 2 * b1.toNat + b0.toNat)

end Sys2Proof
end

