-- ==== Sys2Proof/Config.lean ====
section
/-! DEFINITION. What an implementation or a platform fixes, and the free values (the `draw_N()` of spec 00_scope.md R7):
opaque constants, applied by the machine to its counter of draws, so that nothing can be proved of the value drawn. -/

namespace Sys2Proof.Config

/-- `draw_1()` (R7): a free bit. DESIGN CHOICE (log 4): the n-th draw of a run is this constant at n. -/
opaque drawBit : Nat → Bool

/-- `draw_8()` (R7): a free byte (log 4). -/
opaque drawByte : Nat → Byte

/-- `draw_16()` (R7): a free word (log 4). -/
opaque drawWord : Nat → Word

/-- What an address that no cell lists holds. The spec gives memory no contents after power-on (R34, R52).
DESIGN CHOICE, unsafe (log 1): 00H, as the programs of 95_test_vectors.md section 6 take it. -/
def blankByte : Byte := 0

/-- The two parts (R1, R5). They differ in the range of the clock period only (R370, D24). -/
inductive Variant where
  | i8085A
  | i8085A2
deriving DecidableEq, Repr

/-- The shortest period of CLK in nanoseconds (R5, R370). -/
def tCycMin : Variant → Nat
  | .i8085A => 320
  | .i8085A2 => 200

/-- The longest period of CLK in nanoseconds (R5, R370). -/
def tCycMax : Variant → Nat
  | .i8085A => 2000
  | .i8085A2 => 2000

end Sys2Proof.Config
end

