-- ==== Sys2Proof/Syntax.lean ====
section
/-! DEFINITION. The instructions of Table 6-1 (spec 30_encoding.md R76): one constructor for each of its 113 rows, in the
table's order, with the operands its encoding carries (R71, R73). -/

namespace Sys2Proof

/-- The seven registers a DDD or SSS field can name (R11). Code 110 is no register: it selects the separate M row. -/
inductive Reg where
  | b
  | c
  | d
  | e
  | h
  | l
  | a
deriving DecidableEq, Repr

/-- The instruction set. The word in capitals is the row's mnemonic in Table 6-1. -/
inductive Instr where
  /-- MOV r1,r2: Move register to register (R100) -/
  | movRR (dst src : Reg)
  /-- MOV M,r: Move register to memory (R101) -/
  | movMR (src : Reg)
  /-- MOV r,M: Move memory to register (R102) -/
  | movRM (dst : Reg)
  /-- MVI r: Move immediate register (R103) -/
  | mviR (dst : Reg) (data : Byte)
  /-- MVI M: Move immediate memory (R104) -/
  | mviM (data : Byte)
  /-- LXI B: Load immediate register Pair B & C (R105) -/
  | lxiB (data : Word)
  /-- LXI D: Load immediate register Pair D & E (R106) -/
  | lxiD (data : Word)
  /-- LXI H: Load immediate register Pair H & L (R107) -/
  | lxiH (data : Word)
  /-- STAX B: Store A indirect (R108) -/
  | staxB
  /-- STAX D: Store A indirect (R109) -/
  | staxD
  /-- LDAX B: Load A indirect (R110) -/
  | ldaxB
  /-- LDAX D: Load A indirect (R111) -/
  | ldaxD
  /-- STA: Store A direct (R112) -/
  | sta (addr : Word)
  /-- LDA: Load A direct (R113) -/
  | lda (addr : Word)
  /-- SHLD: Store H & L direct (R114) -/
  | shld (addr : Word)
  /-- LHLD: Load H & L direct (R115) -/
  | lhld (addr : Word)
  /-- XCHG: Exchange D & E, H & L Registers (R116) -/
  | xchg
  /-- PUSH B: Push register Pair B & C on stack (R120) -/
  | pushB
  /-- PUSH D: Push register Pair D & E on stack (R121) -/
  | pushD
  /-- PUSH H: Push register Pair H & L on stack (R122) -/
  | pushH
  /-- PUSH PSW: Push A and Flags on stack (R123) -/
  | pushPsw
  /-- POP B: Pop register Pair B & C off stack (R124) -/
  | popB
  /-- POP D: Pop register Pair D & E off stack (R125) -/
  | popD
  /-- POP H: Pop register Pair H & L off stack (R126) -/
  | popH
  /-- POP PSW: Pop A and Flags off stack (R127) -/
  | popPsw
  /-- XTHL: Exchange top of stack, H & L (R128) -/
  | xthl
  /-- SPHL: H & L to stack pointer (R129) -/
  | sphl
  /-- LXI SP: Load immediate stack pointer (R130) -/
  | lxiSp (data : Word)
  /-- INX SP: Increment stack pointer (R131) -/
  | inxSp
  /-- DCX SP: Decrement stack pointer (R132) -/
  | dcxSp
  /-- JMP: Jump unconditional (R140) -/
  | jmp (addr : Word)
  /-- JC: Jump on carry (R141) -/
  | jc (addr : Word)
  /-- JNC: Jump on no carry (R142) -/
  | jnc (addr : Word)
  /-- JZ: Jump on zero (R143) -/
  | jz (addr : Word)
  /-- JNZ: Jump on no zero (R144) -/
  | jnz (addr : Word)
  /-- JP: Jump on positive (R145) -/
  | jp (addr : Word)
  /-- JM: Jump on minus (R146) -/
  | jm (addr : Word)
  /-- JPE: Jump on parity even (R147) -/
  | jpe (addr : Word)
  /-- JPO: Jump on parity odd (R148) -/
  | jpo (addr : Word)
  /-- PCHL: H & L to program counter (R149) -/
  | pchl
  /-- CALL: Call unconditional (R155) -/
  | call (addr : Word)
  /-- CC: Call on carry (R156) -/
  | cc (addr : Word)
  /-- CNC: Call on no carry (R157) -/
  | cnc (addr : Word)
  /-- CZ: Call on zero (R158) -/
  | cz (addr : Word)
  /-- CNZ: Call on no zero (R159) -/
  | cnz (addr : Word)
  /-- CP: Call on positive (R160) -/
  | cp (addr : Word)
  /-- CM: Call on minus (R161) -/
  | cm (addr : Word)
  /-- CPE: Call on parity even (R162) -/
  | cpe (addr : Word)
  /-- CPO: Call on parity odd (R163) -/
  | cpo (addr : Word)
  /-- RET: Return (R164) -/
  | ret
  /-- RC: Return on carry (R165) -/
  | rc
  /-- RNC: Return on no carry (R166) -/
  | rnc
  /-- RZ: Return on zero (R167) -/
  | rz
  /-- RNZ: Return on no zero (R168) -/
  | rnz
  /-- RP: Return on positive (R169) -/
  | rp
  /-- RM: Return on minus (R170) -/
  | rm
  /-- RPE: Return on parity even (R171) -/
  | rpe
  /-- RPO: Return on parity odd (R172) -/
  | rpo
  /-- RST: Restart (R173) -/
  | rst (n : Nat)
  /-- IN: Input (R180) -/
  | inPort (port : Byte)
  /-- OUT: Output (R181) -/
  | outPort (port : Byte)
  /-- INR r: Increment register (R185) -/
  | inrR (dst : Reg)
  /-- DCR r: Decrement register (R186) -/
  | dcrR (dst : Reg)
  /-- INR M: Increment memory (R187) -/
  | inrM
  /-- DCR M: Decrement memory (R188) -/
  | dcrM
  /-- INX B: Increment B & C registers (R189) -/
  | inxB
  /-- INX D: Increment D & E registers (R190) -/
  | inxD
  /-- INX H: Increment H & L registers (R191) -/
  | inxH
  /-- DCX B: Decrement B & C (R192) -/
  | dcxB
  /-- DCX D: Decrement D & E (R193) -/
  | dcxD
  /-- DCX H: Decrement H & L (R194) -/
  | dcxH
  /-- ADD r: Add register to A (R200) -/
  | addR (src : Reg)
  /-- ADC r: Add register to A with carry (R201) -/
  | adcR (src : Reg)
  /-- ADD M: Add memory to A (R202) -/
  | addM
  /-- ADC M: Add memory to A with carry (R203) -/
  | adcM
  /-- ADI: Add immediate to A (R204) -/
  | adi (data : Byte)
  /-- ACI: Add immediate to A with carry (R205) -/
  | aci (data : Byte)
  /-- DAD B: Add B & C to H & L (R206) -/
  | dadB
  /-- DAD D: Add D & E to H & L (R207) -/
  | dadD
  /-- DAD H: Add H & L to H & L (R208) -/
  | dadH
  /-- DAD SP: Add stack pointer to H & L (R209) -/
  | dadSp
  /-- SUB r: Subtract register from A (R210) -/
  | subR (src : Reg)
  /-- SBB r: Subtract register from A with borrow (R211) -/
  | sbbR (src : Reg)
  /-- SUB M: Subtract memory from A (R212) -/
  | subM
  /-- SBB M: Subtract memory from A with borrow (R213) -/
  | sbbM
  /-- SUI: Subtract immediate from A (R214) -/
  | sui (data : Byte)
  /-- SBI: Subtract immediate from A with borrow (R215) -/
  | sbi (data : Byte)
  /-- ANA r: And register with A (R225) -/
  | anaR (src : Reg)
  /-- XRA r: Exclusive OR register with A (R226) -/
  | xraR (src : Reg)
  /-- ORA r: OR register with A (R227) -/
  | oraR (src : Reg)
  /-- CMP r: Compare register with A (R228) -/
  | cmpR (src : Reg)
  /-- ANA M: And memory with A (R229) -/
  | anaM
  /-- XRA M: Exclusive OR memory with A (R230) -/
  | xraM
  /-- ORA M: OR memory with A (R231) -/
  | oraM
  /-- CMP M: Compare memory with A (R232) -/
  | cmpM
  /-- ANI: And immediate with A (R233) -/
  | ani (data : Byte)
  /-- XRI: Exclusive OR immediate with A (R234) -/
  | xri (data : Byte)
  /-- ORI: OR immediate with A (R235) -/
  | ori (data : Byte)
  /-- CPI: Compare immediate with A (R236) -/
  | cpi (data : Byte)
  /-- RLC: Rotate A left (R237) -/
  | rlc
  /-- RRC: Rotate A right (R238) -/
  | rrc
  /-- RAL: Rotate A left through carry (R239) -/
  | ral
  /-- RAR: Rotate A right through carry (R240) -/
  | rar
  /-- CMA: Complement A (R250) -/
  | cma
  /-- STC: Set carry (R251) -/
  | stc
  /-- CMC: Complement carry (R252) -/
  | cmc
  /-- DAA: Decimal adjust A (R253) -/
  | daa
  /-- EI: Enable interrupts (R254) -/
  | ei
  /-- DI: Disable Interrupt (R255) -/
  | di
  /-- NOP: No-operation (R256) -/
  | nop
  /-- HLT: Halt (R257) -/
  | hlt
  /-- RIM: Read Interrupt Mask (R265) -/
  | rim
  /-- SIM: Set Interrupt Mask (R266) -/
  | sim
deriving DecidableEq, Repr

end Sys2Proof
end

