-- ==== Sys2Proof/WellFormed.lean ====
section
/-! DEFINITION. Which terms of `Instr` are instructions of the 8085A. Register fields cannot be ill-formed (`Reg` has no
M), and every value of data8, data16, addr16 and port8 is legal (spec 30_encoding.md R81); what is left is the number of
an RST (43_call_return_restart.md R173: n = 0 to 7). -/

namespace Sys2Proof

/-- The restart number fits the 3-bit field AAA (R71, R173). -/
def restartNumberFits (n : Nat) : Bool := decide (n < 8)

/-- The checks a term of `Instr` passes to be an instruction. -/
def Instr.wellFormed : Instr → Bool
  | .rst n => restartNumberFits n
  | .movRR _ _ | .movMR _ | .movRM _ | .mviR _ _ | .mviM _ | .lxiB _ | .lxiD _ | .lxiH _ | .staxB | .staxD
  | .ldaxB | .ldaxD | .sta _ | .lda _ | .shld _ | .lhld _ | .xchg | .pushB | .pushD | .pushH | .pushPsw | .popB
  | .popD | .popH | .popPsw | .xthl | .sphl | .lxiSp _ | .inxSp | .dcxSp | .jmp _ | .jc _ | .jnc _ | .jz _
  | .jnz _ | .jp _ | .jm _ | .jpe _ | .jpo _ | .pchl | .call _ | .cc _ | .cnc _ | .cz _ | .cnz _ | .cp _
  | .cm _ | .cpe _ | .cpo _ | .ret | .rc | .rnc | .rz | .rnz | .rp | .rm | .rpe | .rpo | .inPort _ | .outPort _
  | .inrR _ | .dcrR _ | .inrM | .dcrM | .inxB | .inxD | .inxH | .dcxB | .dcxD | .dcxH | .addR _ | .adcR _
  | .addM | .adcM | .adi _ | .aci _ | .dadB | .dadD | .dadH | .dadSp | .subR _ | .sbbR _ | .subM | .sbbM
  | .sui _ | .sbi _ | .anaR _ | .xraR _ | .oraR _ | .cmpR _ | .anaM | .xraM | .oraM | .cmpM | .ani _ | .xri _
  | .ori _ | .cpi _ | .rlc | .rrc | .ral | .rar | .cma | .stc | .cmc | .daa | .ei | .di | .nop | .hlt | .rim
  | .sim => true

end Sys2Proof
end

