-- ==== Sys2Proof/Decode.lean ====
section
/-! DEFINITION. Decoding and encoding (spec 30_encoding.md). The decoder follows the layouts by shape of R71: bits 7:6
choose the quarter of the map of R77, bits 2:0 the column and bits 5:3 the row. The encoder is written from the bit
patterns of R76. -/

namespace Sys2Proof

/-- The 3-bit code of a register in a DDD or SSS field (R11). -/
def Reg.code : Reg → BitVec 3
  | .b => 0
  | .c => 1
  | .d => 2
  | .e => 3
  | .h => 4
  | .l => 5
  | .a => 7

/-- The register a field value names; 110 names none (R11). -/
def Reg.ofCode (c : BitVec 3) : Option Reg :=
  match c.toNat with
  | 0 => some .b
  | 1 => some .c
  | 2 => some .d
  | 3 => some .e
  | 4 => some .h
  | 5 => some .l
  | 7 => some .a
  | _ => none

/-- D7 D6 of the first byte. -/
def quarterField (op : Byte) : BitVec 2 := op.extractLsb' 6 2

/-- D5 D4 D3 of the first byte: DDD, AAA or ccc (R71). -/
def midField (op : Byte) : BitVec 3 := op.extractLsb' 3 3

/-- D2 D1 D0 of the first byte: SSS (R71). -/
def lowField (op : Byte) : BitVec 3 := op.extractLsb' 0 3

/-- A row with a register field and a separate M row: the M row where the field is 110 (R79). -/
def withReg (c : BitVec 3) (mRow : Option Instr) (rRow : Reg → Instr) : Option Instr :=
  match Reg.ofCode c with
  | some r => some (rRow r)
  | none => mRow

/-- The shapes 00 xxx xxx of R71. -/
def decodeQuarter0 (mid low : BitVec 3) (b2 b3 : Byte) : Option Instr :=
  match low.toNat with
  | 0 => match mid.toNat with
    | 0 => some .nop
    | 4 => some .rim
    | 6 => some .sim
    | _ => none
  | 1 => match mid.toNat with
    | 0 => some (.lxiB (joinBytes b3 b2))
    | 1 => some .dadB
    | 2 => some (.lxiD (joinBytes b3 b2))
    | 3 => some .dadD
    | 4 => some (.lxiH (joinBytes b3 b2))
    | 5 => some .dadH
    | 6 => some (.lxiSp (joinBytes b3 b2))
    | 7 => some .dadSp
    | _ => none
  | 2 => match mid.toNat with
    | 0 => some .staxB
    | 1 => some .ldaxB
    | 2 => some .staxD
    | 3 => some .ldaxD
    | 4 => some (.shld (joinBytes b3 b2))
    | 5 => some (.lhld (joinBytes b3 b2))
    | 6 => some (.sta (joinBytes b3 b2))
    | 7 => some (.lda (joinBytes b3 b2))
    | _ => none
  | 3 => match mid.toNat with
    | 0 => some .inxB
    | 1 => some .dcxB
    | 2 => some .inxD
    | 3 => some .dcxD
    | 4 => some .inxH
    | 5 => some .dcxH
    | 6 => some .inxSp
    | 7 => some .dcxSp
    | _ => none
  | 4 => withReg mid (some .inrM) .inrR
  | 5 => withReg mid (some .dcrM) .dcrR
  | 6 => withReg mid (some (.mviM b2)) (fun r => .mviR r b2)
  | _ => match mid.toNat with
    | 0 => some .rlc
    | 1 => some .rrc
    | 2 => some .ral
    | 3 => some .rar
    | 4 => some .daa
    | 5 => some .cma
    | 6 => some .stc
    | 7 => some .cmc
    | _ => none

/-- The shape 01 DDD SSS: MOV, and HLT where both fields are 110 (R71, R79). -/
def decodeQuarter1 (mid low : BitVec 3) : Option Instr :=
  match Reg.ofCode mid with
  | some dst => withReg low (some (.movRM dst)) (fun src => .movRR dst src)
  | none => withReg low (some .hlt) .movMR

/-- The shape 10 ooo SSS: the eight operations of A with a register or M (R71). -/
def decodeQuarter2 (mid low : BitVec 3) : Option Instr :=
  match mid.toNat with
  | 0 => withReg low (some .addM) .addR
  | 1 => withReg low (some .adcM) .adcR
  | 2 => withReg low (some .subM) .subR
  | 3 => withReg low (some .sbbM) .sbbR
  | 4 => withReg low (some .anaM) .anaR
  | 5 => withReg low (some .xraM) .xraR
  | 6 => withReg low (some .oraM) .oraR
  | _ => withReg low (some .cmpM) .cmpR

/-- The shapes 11 xxx xxx of R71. -/
def decodeQuarter3 (mid low : BitVec 3) (b2 b3 : Byte) : Option Instr :=
  match low.toNat with
  | 0 => match mid.toNat with
    | 0 => some .rnz
    | 1 => some .rz
    | 2 => some .rnc
    | 3 => some .rc
    | 4 => some .rpo
    | 5 => some .rpe
    | 6 => some .rp
    | 7 => some .rm
    | _ => none
  | 1 => match mid.toNat with
    | 0 => some .popB
    | 1 => some .ret
    | 2 => some .popD
    | 4 => some .popH
    | 5 => some .pchl
    | 6 => some .popPsw
    | 7 => some .sphl
    | _ => none
  | 2 => match mid.toNat with
    | 0 => some (.jnz (joinBytes b3 b2))
    | 1 => some (.jz (joinBytes b3 b2))
    | 2 => some (.jnc (joinBytes b3 b2))
    | 3 => some (.jc (joinBytes b3 b2))
    | 4 => some (.jpo (joinBytes b3 b2))
    | 5 => some (.jpe (joinBytes b3 b2))
    | 6 => some (.jp (joinBytes b3 b2))
    | 7 => some (.jm (joinBytes b3 b2))
    | _ => none
  | 3 => match mid.toNat with
    | 0 => some (.jmp (joinBytes b3 b2))
    | 2 => some (.outPort b2)
    | 3 => some (.inPort b2)
    | 4 => some .xthl
    | 5 => some .xchg
    | 6 => some .di
    | 7 => some .ei
    | _ => none
  | 4 => match mid.toNat with
    | 0 => some (.cnz (joinBytes b3 b2))
    | 1 => some (.cz (joinBytes b3 b2))
    | 2 => some (.cnc (joinBytes b3 b2))
    | 3 => some (.cc (joinBytes b3 b2))
    | 4 => some (.cpo (joinBytes b3 b2))
    | 5 => some (.cpe (joinBytes b3 b2))
    | 6 => some (.cp (joinBytes b3 b2))
    | 7 => some (.cm (joinBytes b3 b2))
    | _ => none
  | 5 => match mid.toNat with
    | 0 => some .pushB
    | 1 => some (.call (joinBytes b3 b2))
    | 2 => some .pushD
    | 4 => some .pushH
    | 6 => some .pushPsw
    | _ => none
  | 6 => match mid.toNat with
    | 0 => some (.adi b2)
    | 1 => some (.aci b2)
    | 2 => some (.sui b2)
    | 3 => some (.sbi b2)
    | 4 => some (.ani b2)
    | 5 => some (.xri b2)
    | 6 => some (.ori b2)
    | 7 => some (.cpi b2)
    | _ => none
  | _ => some (.rst mid.toNat)

/-- The instruction a first byte selects, with its operand bytes; `none` for the ten undefined first bytes (R79, R80). A
byte the instruction does not have is not looked at. -/
def instrOf (op b2 b3 : Byte) : Option Instr :=
  match (quarterField op).toNat with
  | 0 => decodeQuarter0 (midField op) (lowField op) b2 b3
  | 1 => decodeQuarter1 (midField op) (lowField op)
  | 2 => decodeQuarter2 (midField op) (lowField op)
  | _ => decodeQuarter3 (midField op) (lowField op) b2 b3

/-- The ten first bytes Table 6-1 gives no instruction (R80). -/
def undefinedOpcodes : List Byte := [0x08, 0x10, 0x18, 0x28, 0x38, 0xCB, 0xD9, 0xDD, 0xED, 0xFD]

/-- Length as a function of the first byte (R75); undefined first bytes have none (R80). -/
def instrLength (op : Byte) : Option Nat :=
  if undefinedOpcodes.contains op then none
  else if op &&& 0xCF = 0x01 then some 3
  else if op = 0x22 ∨ op = 0x2A ∨ op = 0x32 ∨ op = 0x3A then some 3
  else if op &&& 0xC7 = 0xC2 ∨ op = 0xC3 then some 3
  else if op &&& 0xC7 = 0xC4 ∨ op = 0xCD then some 3
  else if op &&& 0xC7 = 0x06 ∨ op &&& 0xC7 = 0xC6 then some 2
  else if op = 0xD3 ∨ op = 0xDB then some 2
  else some 1

/-- What decoding a byte sequence answers: an instruction and the bytes after it, or a rejection by name. -/
inductive DecodeResult where
  | ok (i : Instr) (rest : List Byte)
  /-- R80: the first byte has no row in Table 6-1. -/
  | undefinedOpcode (op : Byte)
  /-- The sequence ends before the instruction does. -/
  | truncated
deriving DecidableEq, Repr

/-- The instruction and the rest, or the rejection of its first byte. -/
def decodedAs (op b2 b3 : Byte) (rest : List Byte) : DecodeResult :=
  match instrOf op b2 b3 with
  | some i => .ok i rest
  | none => .undefinedOpcode op

/-- Decode the instruction at the head of a byte sequence (R70 to R80, R82). Byte 2 is the low-order byte of a 16-bit
operand (R73). -/
def decode : List Byte → DecodeResult
  | [] => .truncated
  | op :: rest =>
    match instrLength op, rest with
    | none, _ => .undefinedOpcode op
    | some 2, b2 :: after => decodedAs op b2 0 after
    | some 3, b2 :: b3 :: after => decodedAs op b2 b3 after
    | some 1, after => decodedAs op 0 0 after
    | some _, _ => .truncated

/-- A first byte from its three fields (R71). -/
def opcodeByte (quarter : BitVec 2) (mid low : BitVec 3) : Byte := quarter ++ mid ++ low

/-- The first byte of an instruction (R76). -/
def opcodeOf : Instr → Byte
  | .movRR dst src => opcodeByte 0b01#2 dst.code src.code
  | .movMR src => opcodeByte 0b01#2 0b110#3 src.code
  | .movRM dst => opcodeByte 0b01#2 dst.code 0b110#3
  | .mviR dst _ => opcodeByte 0b00#2 dst.code 0b110#3
  | .mviM _ => 0b00110110#8
  | .lxiB _ => 0b00000001#8
  | .lxiD _ => 0b00010001#8
  | .lxiH _ => 0b00100001#8
  | .staxB => 0b00000010#8
  | .staxD => 0b00010010#8
  | .ldaxB => 0b00001010#8
  | .ldaxD => 0b00011010#8
  | .sta _ => 0b00110010#8
  | .lda _ => 0b00111010#8
  | .shld _ => 0b00100010#8
  | .lhld _ => 0b00101010#8
  | .xchg => 0b11101011#8
  | .pushB => 0b11000101#8
  | .pushD => 0b11010101#8
  | .pushH => 0b11100101#8
  | .pushPsw => 0b11110101#8
  | .popB => 0b11000001#8
  | .popD => 0b11010001#8
  | .popH => 0b11100001#8
  | .popPsw => 0b11110001#8
  | .xthl => 0b11100011#8
  | .sphl => 0b11111001#8
  | .lxiSp _ => 0b00110001#8
  | .inxSp => 0b00110011#8
  | .dcxSp => 0b00111011#8
  | .jmp _ => 0b11000011#8
  | .jc _ => 0b11011010#8
  | .jnc _ => 0b11010010#8
  | .jz _ => 0b11001010#8
  | .jnz _ => 0b11000010#8
  | .jp _ => 0b11110010#8
  | .jm _ => 0b11111010#8
  | .jpe _ => 0b11101010#8
  | .jpo _ => 0b11100010#8
  | .pchl => 0b11101001#8
  | .call _ => 0b11001101#8
  | .cc _ => 0b11011100#8
  | .cnc _ => 0b11010100#8
  | .cz _ => 0b11001100#8
  | .cnz _ => 0b11000100#8
  | .cp _ => 0b11110100#8
  | .cm _ => 0b11111100#8
  | .cpe _ => 0b11101100#8
  | .cpo _ => 0b11100100#8
  | .ret => 0b11001001#8
  | .rc => 0b11011000#8
  | .rnc => 0b11010000#8
  | .rz => 0b11001000#8
  | .rnz => 0b11000000#8
  | .rp => 0b11110000#8
  | .rm => 0b11111000#8
  | .rpe => 0b11101000#8
  | .rpo => 0b11100000#8
  | .rst n => opcodeByte 0b11#2 (BitVec.ofNat 3 n) 0b111#3
  | .inPort _ => 0b11011011#8
  | .outPort _ => 0b11010011#8
  | .inrR dst => opcodeByte 0b00#2 dst.code 0b100#3
  | .dcrR dst => opcodeByte 0b00#2 dst.code 0b101#3
  | .inrM => 0b00110100#8
  | .dcrM => 0b00110101#8
  | .inxB => 0b00000011#8
  | .inxD => 0b00010011#8
  | .inxH => 0b00100011#8
  | .dcxB => 0b00001011#8
  | .dcxD => 0b00011011#8
  | .dcxH => 0b00101011#8
  | .addR src => opcodeByte 0b10#2 0b000#3 src.code
  | .adcR src => opcodeByte 0b10#2 0b001#3 src.code
  | .addM => 0b10000110#8
  | .adcM => 0b10001110#8
  | .adi _ => 0b11000110#8
  | .aci _ => 0b11001110#8
  | .dadB => 0b00001001#8
  | .dadD => 0b00011001#8
  | .dadH => 0b00101001#8
  | .dadSp => 0b00111001#8
  | .subR src => opcodeByte 0b10#2 0b010#3 src.code
  | .sbbR src => opcodeByte 0b10#2 0b011#3 src.code
  | .subM => 0b10010110#8
  | .sbbM => 0b10011110#8
  | .sui _ => 0b11010110#8
  | .sbi _ => 0b11011110#8
  | .anaR src => opcodeByte 0b10#2 0b100#3 src.code
  | .xraR src => opcodeByte 0b10#2 0b101#3 src.code
  | .oraR src => opcodeByte 0b10#2 0b110#3 src.code
  | .cmpR src => opcodeByte 0b10#2 0b111#3 src.code
  | .anaM => 0b10100110#8
  | .xraM => 0b10101110#8
  | .oraM => 0b10110110#8
  | .cmpM => 0b10111110#8
  | .ani _ => 0b11100110#8
  | .xri _ => 0b11101110#8
  | .ori _ => 0b11110110#8
  | .cpi _ => 0b11111110#8
  | .rlc => 0b00000111#8
  | .rrc => 0b00001111#8
  | .ral => 0b00010111#8
  | .rar => 0b00011111#8
  | .cma => 0b00101111#8
  | .stc => 0b00110111#8
  | .cmc => 0b00111111#8
  | .daa => 0b00100111#8
  | .ei => 0b11111011#8
  | .di => 0b11110011#8
  | .nop => 0b00000000#8
  | .hlt => 0b01110110#8
  | .rim => 0b00100000#8
  | .sim => 0b00110000#8

/-- The bytes after the first: the low-order byte of a 16-bit operand before the high-order byte (R70, R73). -/
def operandBytes : Instr → List Byte
  | .lxiB v | .lxiD v | .lxiH v | .sta v | .lda v | .shld v | .lhld v | .lxiSp v | .jmp v | .jc v | .jnc v
  | .jz v | .jnz v | .jp v | .jm v | .jpe v | .jpo v | .call v | .cc v | .cnc v | .cz v | .cnz v | .cp v
  | .cm v | .cpe v | .cpo v => [loByte v, hiByte v]
  | .mviR _ v | .mviM v | .inPort v | .outPort v | .adi v | .aci v | .sui v | .sbi v | .ani v | .xri v | .ori v
  | .cpi v => [v]
  | .movRR _ _ | .movMR _ | .movRM _ | .staxB | .staxD | .ldaxB | .ldaxD | .xchg | .pushB | .pushD | .pushH
  | .pushPsw | .popB | .popD | .popH | .popPsw | .xthl | .sphl | .inxSp | .dcxSp | .pchl | .ret | .rc | .rnc
  | .rz | .rnz | .rp | .rm | .rpe | .rpo | .rst _ | .inrR _ | .dcrR _ | .inrM | .dcrM | .inxB | .inxD | .inxH
  | .dcxB | .dcxD | .dcxH | .addR _ | .adcR _ | .addM | .adcM | .dadB | .dadD | .dadH | .dadSp | .subR _
  | .sbbR _ | .subM | .sbbM | .anaR _ | .xraR _ | .oraR _ | .cmpR _ | .anaM | .xraM | .oraM | .cmpM | .rlc
  | .rrc | .ral | .rar | .cma | .stc | .cmc | .daa | .ei | .di | .nop | .hlt | .rim | .sim => []

/-- The bytes of an instruction, as they stand at increasing addresses (R70). -/
def encode (i : Instr) : List Byte := opcodeOf i :: operandBytes i

/-- The bytes of an instruction given as one number, bit 0 the least significant bit of the first byte; every bit from
`nbits` on is 0. -/
def tableWordBytes (nbits w : Nat) : List Byte :=
  [BitVec.ofNat 8 (w % 2 ^ nbits), BitVec.ofNat 8 (w % 2 ^ nbits / 256), BitVec.ofNat 8 (w % 2 ^ nbits / 65536)]

/-- The instruction at the head of a byte sequence, if there is one. -/
def decodeOne (bytes : List Byte) : Option Instr :=
  match decode bytes with
  | .ok i _ => some i
  | .undefinedOpcode _ => none
  | .truncated => none

/-- The instruction the decoder reads from a word of spec/opcode_table.json. -/
def decodeTableWord (nbits w : Nat) : Option Instr := decodeOne (tableWordBytes nbits w)

end Sys2Proof
end

