-- ==== Sys2Proof/Machine/State.lean ====
section
/-! DEFINITION. The state of the machine: plain data, holding every piece of state of spec 10_state.md, the memory and
memory map of 20_memory.md, the input pins of R32, and what the model keeps of the outside world (log 4, 5, 8, 12). -/

namespace Sys2Proof.Machine

/-- The seven 8-bit registers (R10, R11). -/
structure Regs where
  a : Byte
  b : Byte
  c : Byte
  d : Byte
  e : Byte
  h : Byte
  l : Byte
deriving DecidableEq, Repr

/-- The five flags (R14). -/
structure Flags where
  s : Bool
  z : Bool
  ac : Bool
  p : Bool
  cy : Bool
deriving DecidableEq, Repr

/-- The interrupt, serial and control state (R22 to R30). None of it has an address. -/
structure Control where
  /-- IE, the Interrupt Enable flip-flop (R22). -/
  ie : Bool
  /-- The three interrupt masks, true = masked (R23). -/
  m55 : Bool
  m65 : Bool
  m75 : Bool
  /-- R75, the RST 7.5 request flip-flop (R24). -/
  r75 : Bool
  /-- TRAPFF, the internal TRAP flip-flop (R25). -/
  trapFF : Bool
  /-- SOD, the serial output data latch (R26). -/
  sod : Bool
  /-- TIE, the interrupt enable status saved by TRAP (R27). -/
  tie : Bool
  /-- TIEV: TIE is valid (R27). -/
  tieV : Bool
  /-- EIINH: the instruction just completed was EI (R28). -/
  eiInh : Bool
  /-- HALTED: the CPU is in the halt state (R29). -/
  halted : Bool
  /-- HLDAFF, the hold acknowledge flip-flop, which drives HLDA (R30). -/
  hldaFF : Bool
deriving DecidableEq, Repr

/-- The levels of the input pins (R32); true is high. SID, RST 6.5 and RST 5.5, whose levels RIM reads, are `none` where the
platform drives nothing (R265, D14; log 17). RESET IN is an event, READY and the clock change no value (log 7). -/
structure Pins where
  trap : Bool
  rst75 : Bool
  rst65 : Option Bool
  rst55 : Option Bool
  intr : Bool
  sid : Option Bool
  hold : Bool
deriving DecidableEq, Repr

/-- The names of the input pins. -/
inductive Pin where
  | trap
  | rst75
  | rst65
  | rst55
  | intr
  | sid
  | hold
deriving DecidableEq, Repr

/-- What the platform has at an address (`MEMORY_MAP`, R5, R42, R45, R46). -/
inductive MemKind where
  /-- Holds the byte most recently written. -/
  | ram
  /-- Holds a fixed byte; a write is lost. -/
  | rom
  /-- A memory-mapped device: it answers reads as it likes and takes writes (R42). -/
  | device
  /-- Nothing is selected: a read gives a free byte and a write is lost. -/
  | absent
deriving DecidableEq, Repr

/-- `size` addresses from `base` on, all of one kind (log 9). -/
structure MemRegion where
  base : Nat
  size : Nat
  kind : MemKind
  /-- RAM here loses its contents at RESET IN (R353); of no meaning for the other kinds. -/
  losesAtReset : Bool := false
deriving DecidableEq, Repr

/-- What answers the reads of some ports, or of some addresses of memory-mapped devices (`PORT_MAP`, `MEMORY_MAP`; R5, R6): its
own stream of bytes, one for each read, and what it drives once these are used up; `none` is nothing driven (log 8). -/
structure Device where
  /-- The first port or address at which it answers, and how many follow from there. -/
  base : Nat
  size : Nat
  coming : List (Option Byte)
  after : Option Byte
deriving DecidableEq, Repr

/-- The machine cycles of one acknowledge of INTR (R318). -/
inductive AckCycle where
  | first
  | second
  | third
deriving DecidableEq, Repr

/-- `INTA_RESPONDER` (R5, R49, D7): the byte driven in each acknowledge cycle; `none` is nothing driven. -/
structure Responder where
  first : Option Byte
  second : Option Byte
  third : Option Byte
deriving DecidableEq, Repr

/-- What answers the CPU on the bus (R6): the input ports, the memory-mapped devices and the acknowledge responder, each for
itself. -/
structure Platform where
  /-- `PORT_MAP`: who answers an I/O read of each port; a port that no entry holds is not there (R47). -/
  ports : List Device
  /-- Who answers a read of an address at which `memMap` has a device (R42, R45). -/
  devices : List Device
  /-- `INTA_RESPONDER`. -/
  responder : Responder
deriving DecidableEq, Repr

/-- A change the platform makes of its own in what answers (log 8). -/
inductive PlatformChange where
  | ports (ds : List Device)
  | devices (ds : List Device)
  | responder (r : Responder)
deriving DecidableEq, Repr

/-- What another bus master does while it has the bus (R58, R335). -/
inductive MasterAccess where
  | memRead (addr : Word)
  | memWrite (addr : Word) (v : Byte)
  | ioRead (port : Byte)
  | ioWrite (port v : Byte)
deriving DecidableEq, Repr

/-- A cycle of the other bus master, with the byte it read or wrote (R58, R59). -/
inductive MasterCycle where
  | memRead (addr : Word) (v : Byte)
  | memWrite (addr : Word) (v : Byte)
  | ioRead (port v : Byte)
  | ioWrite (port v : Byte)
deriving DecidableEq, Repr

/-- One thing the outside world does (R6, R32). -/
inductive EnvEvent where
  /-- An input pin takes this level. -/
  | pin (p : Pin) (level : Bool)
  /-- The master behind HOLD accesses the bus; it can do so only while HLDA is high (R58). -/
  | master (m : MasterAccess)
  /-- What answers on the bus changes (R5, R6). -/
  | platform (p : PlatformChange)
  /-- RESET IN is applied and released (R350; log 10). -/
  | resetIn
deriving DecidableEq, Repr

/-- What the outside sees happen: a machine cycle (R43) with its kind, address and byte, a change of SOD, or a reset. -/
inductive BusEvent where
  | opcodeFetch (addr : Word) (v : Byte)
  | memRead (addr : Word) (v : Byte)
  | memWrite (addr : Word) (v : Byte)
  | ioRead (port v : Byte)
  | ioWrite (port v : Byte)
  | intAck (v : Byte)
  /-- BUS IDLE, second and third machine cycles of DAD (R50). -/
  | idleDad
  /-- BUS IDLE, acknowledge of RST 5.5, 6.5, 7.5 or TRAP (R50). -/
  | idleAck
  /-- A cycle of the other bus master (R58). -/
  | master (c : MasterCycle)
  /-- SOD takes a new level (R267). -/
  | sod (level : Bool)
  /-- The CPU is being reset: RESET OUT is high for an integral number of clock periods (R351). -/
  | resetOut
deriving DecidableEq, Repr

/-- Memory: (address, byte) cells, addresses strictly rising and below 65536, no cell equal to what an unlisted address
reads as (`Memory.wf`). -/
abbrev Memory := List Host.Cell

/-- The machine. -/
structure State where
  /-- A, B, C, D, E, H, L. -/
  regs : Regs
  /-- F.S, F.Z, F.AC, F.P, F.CY. -/
  flags : Flags
  /-- SP (R21). -/
  sp : Word
  /-- The program counter (R13). -/
  pc : Word
  /-- The interrupt, serial and control bits. -/
  ctl : Control
  /-- The contents of the 65536 locations (R40). -/
  mem : Memory
  /-- `MEMORY_MAP`: the first region that holds an address gives its kind; an address in none is RAM (log 9). -/
  memMap : List MemRegion
  /-- The levels of the input pins. -/
  pins : Pins
  /-- The model's own: what the outside world is still to do, one list for each coming slot (log 5). -/
  env : List (List EnvEvent)
  /-- `PORT_MAP`, what the memory-mapped devices answer, and `INTA_RESPONDER` (log 8). -/
  platform : Platform
  /-- The model's own: the machine cycles, SOD changes and resets so far, newest first (log 12). -/
  bus : List BusEvent
  /-- The model's own: how many free values have been drawn (log 4). -/
  draws : Nat
  /-- The model's own: RESET IN has arrived, the instruction in progress is abandoned (log 10). -/
  resetting : Bool
deriving DecidableEq, Repr

/-- The 8085A has no fault: no instruction can trap, fault or abort (R300). There is no constructor, so nothing raises
one; this is what the spec says, neither safe nor unsafe. -/
inductive Fault where
deriving DecidableEq, Repr

/-- Why a step has no next state. -/
inductive Refusal where
  /-- Raised by an arm of `exec` for an instruction that has no meaning yet; no arm of this model raises it. Safe. -/
  | notModelled (mnemonic : String)
  /-- Raised by the step when the first byte fetched has no row in Table 6-1: the spec gives it no meaning (R80, D2).
  Safe: nothing can be proved of what follows. -/
  | undefinedOpcode (op : Byte)
  /-- Raised by the acknowledge of INTR when the responder supplies neither RST n nor CALL: the spec gives no behaviour
  (R318, D18). Safe. -/
  | intaNotRestartOrCall (op : Byte)
deriving DecidableEq, Repr

/-- What an instruction or a step answers. -/
abbrev Result := Host.Outcome State Fault Refusal

/-- The interrupt, serial and control bits after RESET IN (R34); `tie` is immaterial while `tieV` is 0. -/
def Control.afterReset (tie : Bool) : Control :=
  { ie := false, m55 := true, m65 := true, m75 := true, r75 := false, trapFF := false, sod := false, tie := tie
    tieV := false, eiInh := false, halted := false, hldaFF := false }

/-- The machine right after reset (R34). A, B, C, D, E, H, L, the flags and SP are unspecified there: DESIGN CHOICE,
unsafe (log 2), they are 0. Memory lists nothing (log 1), RAM is everywhere, there is no port, no device and no
responder, all inputs are low and the outside does nothing: the defaults of 92_eei_decisions.md (log 5, 8, 9). Nothing drives
SID, RST 6.5 and RST 5.5 (D14; log 17). -/
def State.reset : State :=
  { regs := { a := 0, b := 0, c := 0, d := 0, e := 0, h := 0, l := 0 }
    flags := { s := false, z := false, ac := false, p := false, cy := false }
    sp := 0
    pc := 0
    ctl := Control.afterReset false
    mem := []
    memMap := []
    pins := { trap := false, rst75 := false, rst65 := none, rst55 := none, intr := false, sid := none, hold := false }
    env := []
    platform := { ports := [], devices := [], responder := { first := none, second := none, third := none } }
    bus := []
    draws := 0
    resetting := false }

end Sys2Proof.Machine
end

