-- ==== Sys2Proof/Machine/Flags.lean ====
section
/-! DEFINITION. Flag computation (spec 10_state.md R15 to R20). Each function computes on integers and narrows at the
end. -/

namespace Sys2Proof.Machine

/-- How many bits of a byte are 1. -/
def onesCount (v : Byte) : Nat :=
  (v.getLsbD 0).toNat + (v.getLsbD 1).toNat + (v.getLsbD 2).toNat + (v.getLsbD 3).toNat
    + (v.getLsbD 4).toNat + (v.getLsbD 5).toNat + (v.getLsbD 6).toNat + (v.getLsbD 7).toNat

/-- `parity8(v)`: 1 if the number of 1 bits is even (R16). -/
def parity8 (v : Byte) : Bool := onesCount v % 2 == 0

/-- `szp(v)` writes S, Z and P from a result (R17). -/
def Flags.szp (f : Flags) (v : Byte) : Flags :=
  { f with s := v.getLsbD 7, z := v == 0, p := parity8 v }

/-- What the adder answers: result, carry or borrow, auxiliary carry. -/
structure Sum where
  r : Byte
  cy : Bool
  ac : Bool
deriving DecidableEq, Repr

/-- `add8(a, b, cin)` (R18). -/
def add8 (a b : Byte) (cin : Bool) : Sum :=
  { r := BitVec.ofNat 8 (a.toNat + b.toNat + cin.toNat)
    cy := decide (a.toNat + b.toNat + cin.toNat > 255)
    ac := decide (a.toNat % 16 + b.toNat % 16 + cin.toNat > 15) }

/-- `sub8(a, b, bin)` (R19): `cy` is the borrow, `ac` the carry out of bit 3 of the addition of the complement. -/
def sub8 (a b : Byte) (bin : Bool) : Sum :=
  { r := BitVec.ofInt 8 ((a.toNat : Int) - b.toNat - bin.toNat)
    cy := decide (a.toNat < b.toNat + bin.toNat)
    ac := decide (a.toNat % 16 + (~~~b).toNat % 16 + (1 - bin.toNat) > 15) }

/-- The flags from a sum: S, Z, P of the result, AC and CY of the adder. -/
def Flags.ofSum (f : Flags) (o : Sum) : Flags := { f.szp o.r with ac := o.ac, cy := o.cy }

/-- The flags from a sum whose carry is discarded (R185, R186). -/
def Flags.ofSumKeepingCy (f : Flags) (o : Sum) : Flags := { f.szp o.r with ac := o.ac }

/-- The flags of a logical result: S, Z, P of the result, CY cleared, AC as the operation has it (R225 to R235). -/
def Flags.ofLogic (f : Flags) (v : Byte) (ac : Bool) : Flags := { f.szp v with ac := ac, cy := false }

/-- The flag byte (R15): S Z - AC - P - CY; `x5`, `x3`, `x1` stand in the three bits that hold no flag. -/
def Flags.byte (f : Flags) (x5 x3 x1 : Bool) : Byte := packByte f.s f.z x5 f.ac x3 f.p x1 f.cy

/-- `setflags(b)` (R15). -/
def Flags.ofByte (b : Byte) : Flags :=
  { s := b.getLsbD 7, z := b.getLsbD 6, ac := b.getLsbD 4, p := b.getLsbD 2, cy := b.getLsbD 0 }

/-- The eight conditions, in the order of their codes (R20). -/
inductive Cond where
  | nz
  | z
  | nc
  | c
  | po
  | pe
  | p
  | m
deriving DecidableEq, Repr

/-- The condition of a 3-bit code ccc (R20). -/
def Cond.ofCode (ccc : BitVec 3) : Cond :=
  match ccc.toNat with
  | 0 => .nz
  | 1 => .z
  | 2 => .nc
  | 3 => .c
  | 4 => .po
  | 5 => .pe
  | 6 => .p
  | _ => .m

/-- `cond(ccc)`: when a condition is true (R20). -/
def Cond.holds (k : Cond) (f : Flags) : Bool :=
  match k with
  | .nz => !f.z
  | .z => f.z
  | .nc => !f.cy
  | .c => f.cy
  | .po => !f.p
  | .pe => f.p
  | .p => !f.s
  | .m => f.s

/-- What DAA adds to A, and the carry it leaves (R253): both tests are made on A and the flags before anything is added. -/
def daaCorrection (a : Byte) (f : Flags) : Byte × Bool :=
  let lo := a.toNat % 16
  let hi := a.toNat / 16
  let high := decide (hi > 9) || f.cy || (decide (hi ≥ 9) && decide (lo > 9))
  let corrLow : Byte := if decide (lo > 9) || f.ac then 0x06 else 0x00
  (if high then corrLow ||| 0x60 else corrLow, high || f.cy)

end Sys2Proof.Machine
end

