-- ==== Sys2Proof/Machine/Operands.lean ====
section
/-! DEFINITION. The operand forms (spec 30_encoding.md R74) that need no bus: registers and register pairs. The memory forms
are reads and writes of Machine/Ops.lean at the addresses given here. -/

namespace Sys2Proof.Machine

/-- `r[c]` (R7, R11). -/
def Regs.get (q : Regs) : Reg → Byte
  | .a => q.a
  | .b => q.b
  | .c => q.c
  | .d => q.d
  | .e => q.e
  | .h => q.h
  | .l => q.l

/-- `r[c] <- v` (R7, R11). -/
def Regs.set (q : Regs) (r : Reg) (v : Byte) : Regs :=
  match r with
  | .a => { q with a := v }
  | .b => { q with b := v }
  | .c => { q with c := v }
  | .d => { q with d := v }
  | .e => { q with e := v }
  | .h => { q with h := v }
  | .l => { q with l := v }

/-- The register pairs (R12). -/
inductive Pair where
  | bc
  | de
  | hl
  | sp
deriving DecidableEq, Repr

/-- Register operand, read. -/
def State.getReg (s : State) (r : Reg) : Byte := s.regs.get r

/-- Register operand, written. -/
def State.setReg (s : State) (r : Reg) (v : Byte) : State := { s with regs := s.regs.set r v }

/-- `rp[p]` (R7, R12): the first-named register holds the high-order byte. -/
def State.getPair (s : State) : Pair → Word
  | .bc => joinBytes s.regs.b s.regs.c
  | .de => joinBytes s.regs.d s.regs.e
  | .hl => joinBytes s.regs.h s.regs.l
  | .sp => s.sp

/-- `rp[p] <- v` (R7, R12). -/
def State.setPair (s : State) (p : Pair) (v : Word) : State :=
  match p with
  | .bc => { s with regs := { s.regs with b := hiByte v, c := loByte v } }
  | .de => { s with regs := { s.regs with d := hiByte v, e := loByte v } }
  | .hl => { s with regs := { s.regs with h := hiByte v, l := loByte v } }
  | .sp => { s with sp := v }

/-- The data pointer HL: the address of operand M (R10, R101). -/
def State.hl (s : State) : Word := s.getPair .hl

end Sys2Proof.Machine
end

