-- ==== Sys2Proof/Machine/Outside.lean ====
section
/-! DEFINITION. What comes from outside the instruction in progress: free values (spec 00_scope.md R7), the input pins
(10_state.md R32), the other bus master (20_memory.md R58), RESET IN (70_reset_and_hazards.md R352), and the slots of the
script in which they act (log 5). -/

namespace Sys2Proof.Machine

/-- `draw_1()`: the next free bit. -/
def State.draw1 (s : State) : Bool × State := (Config.drawBit s.draws, { s with draws := s.draws + 1 })

/-- `draw_8()`: the next free byte. -/
def State.draw8 (s : State) : Byte × State := (Config.drawByte s.draws, { s with draws := s.draws + 1 })

/-- `draw_16()`: the next free word. -/
def State.draw16 (s : State) : Word × State := (Config.drawWord s.draws, { s with draws := s.draws + 1 })

/-- Whether a region holds an address. -/
def MemRegion.holds (r : MemRegion) (a : Nat) : Bool := decide (r.base ≤ a) && decide (a < r.base + r.size)

/-- `MEMORY_MAP` as a function: the kind of the first region that holds the address; RAM where none does (log 9). -/
def mapKind (m : List MemRegion) (a : Nat) : MemKind :=
  match m with
  | [] => .ram
  | r :: rest => if r.holds a then r.kind else mapKind rest a

/-- What the platform has at an address (R42, R45). -/
def State.kindAt (s : State) (a : Word) : MemKind := mapKind s.memMap a.toNat

/-- Whether `MEMORY_MAP` has RAM at an address that loses its contents at RESET IN (R353); where no region holds the address,
RAM keeps them (log 9). -/
def mapLoses (m : List MemRegion) (a : Nat) : Bool :=
  match m with
  | [] => false
  | r :: rest => if r.holds a then r.losesAtReset && decide (r.kind = .ram) else mapLoses rest a

/-- Whether RAM at an address loses its contents at RESET IN (R353). -/
def State.losesAt (s : State) (a : Word) : Bool := mapLoses s.memMap a.toNat

/-- The byte the memory holds at an address, with no machine cycle. -/
def State.peek (s : State) (a : Word) : Byte := s.mem.get a.toNat

/-- Memory after a byte arrives at an address (R46): RAM keeps it; for ROM and an absent address it is lost; a device takes
it, which the bus log records. -/
def stored (map : List MemRegion) (mem : Memory) (a : Word) (v : Byte) : Memory :=
  match mapKind map a.toNat with
  | .ram => mem.set a.toNat v
  | .rom | .device | .absent => mem

/-- A byte arriving at an address. -/
def State.poke (s : State) (a : Word) (v : Byte) : State := { s with mem := stored s.memMap s.mem a v }

/-- Whether a device answers at a port or an address. -/
def Device.holds (d : Device) (n : Nat) : Bool := decide (d.base ≤ n) && decide (n < d.base + d.size)

/-- What a read at a port or an address finds driven: the next byte of the first device there; and the devices after it. -/
def takeAnswer (ds : List Device) (n : Nat) : Option Byte × List Device :=
  match ds with
  | [] => (none, [])
  | d :: rest =>
    if d.holds n then (d.coming.headD d.after, { d with coming := d.coming.tail } :: rest)
    else
      let r := takeAnswer rest n
      (r.1, d :: r.2)

/-- What stands on the data bus in a read: the byte driven, or a free byte where nothing drives it (D5, D7). -/
def State.dataBus (s : State) (driven : Option Byte) : Byte × State :=
  match driven with
  | some v => (v, s)
  | none => s.draw8

/-- The byte an input port drives (R47). -/
def State.readPort (s : State) (port : Byte) : Byte × State :=
  let r := takeAnswer s.platform.ports port.toNat
  State.dataBus { s with platform := { s.platform with ports := r.2 } } r.1

/-- The byte a memory-mapped device drives (R42, R45). -/
def State.readDevice (s : State) (a : Word) : Byte × State :=
  let r := takeAnswer s.platform.devices a.toNat
  State.dataBus { s with platform := { s.platform with devices := r.2 } } r.1

/-- `INTA_RESPONDER` as the function of D7. -/
def Responder.byte (r : Responder) (k : AckCycle) : Option Byte :=
  match k with
  | .first => r.first
  | .second => r.second
  | .third => r.third

/-- The byte the responder drives in an acknowledge cycle (R49, D7). -/
def State.readResponder (s : State) (k : AckCycle) : Byte × State := s.dataBus (s.platform.responder.byte k)

/-- The byte a read of memory space finds on the bus, whichever master reads (R45, R59). -/
def State.readByte (s : State) (a : Word) : Byte × State :=
  match s.kindAt a with
  | .ram | .rom => (s.peek a, s)
  | .device => s.readDevice a
  | .absent => s.draw8

/-- The platform changes what answers on the bus (R5, R6; log 8). -/
def State.changePlatform (s : State) (p : PlatformChange) : State :=
  match p with
  | .ports ds => { s with platform := { s.platform with ports := ds } }
  | .devices ds => { s with platform := { s.platform with devices := ds } }
  | .responder r => { s with platform := { s.platform with responder := r } }

/-- Whether a level-sensitive request stands on RST 6.5 or RST 5.5 (R307, R308). DESIGN CHOICE, unsafe (log 17): a pin that
nothing drives requests nothing, the default of 92_eei_decisions.md. -/
def asserted (level : Option Bool) : Bool := level.getD false

/-- The level RIM finds on a pin: a free bit where nothing drives it (R265, D14). -/
def State.inputLevel (s : State) (level : Option Bool) : Bool × State :=
  match level with
  | some v => (v, s)
  | none => s.draw1

/-- What the outside sees of the SOD latch when it is loaded: an event if it changes (R267). -/
def sodChange (before after : Bool) : List BusEvent := if before = after then [] else [.sod after]

/-- An input pin takes a level. A rising edge of TRAP or RST 7.5 sets its flip-flop at any time (R24, R25). HLDA falls with
HOLD; it rises by `State.grantHold` only (R30, R335). -/
def State.setPin (s : State) (p : Pin) (level : Bool) : State :=
  match p with
  | .trap => { s with pins := { s.pins with trap := level }
                      ctl := { s.ctl with trapFF := s.ctl.trapFF || (level && !s.pins.trap) } }
  | .rst75 => { s with pins := { s.pins with rst75 := level }
                       ctl := { s.ctl with r75 := s.ctl.r75 || (level && !s.pins.rst75) } }
  | .rst65 => { s with pins := { s.pins with rst65 := some level } }
  | .rst55 => { s with pins := { s.pins with rst55 := some level } }
  | .intr => { s with pins := { s.pins with intr := level } }
  | .sid => { s with pins := { s.pins with sid := some level } }
  | .hold => { s with pins := { s.pins with hold := level }, ctl := { s.ctl with hldaFF := s.ctl.hldaFF && level } }

/-- A cycle of the other master: the same memory, devices and ports answer it and take its writes (R58, R59). -/
def State.masterCycle (s : State) (m : MasterAccess) : MasterCycle × State :=
  match m with
  | .memRead a =>
    let r := s.readByte a
    (.memRead a r.1, r.2)
  | .memWrite a v => (.memWrite a v, s.poke a v)
  | .ioRead p =>
    let r := s.readPort p
    (.ioRead p r.1, r.2)
  | .ioWrite p v => (.ioWrite p v, s)

/-- The other master accesses the bus; without HLDA it has no bus and nothing happens (R58, R335). -/
def State.masterAccess (s : State) (m : MasterAccess) : State :=
  if s.ctl.hldaFF then
    let r := s.masterCycle m
    { r.2 with bus := .master r.1 :: r.2.bus }
  else s

/-- Memory once the RAM among `n` addresses from `base` on that loses its contents has lost them: the byte at address `a` is
the free byte number `first + a`. -/
def loseFrom (map : List MemRegion) (first base n : Nat) (mem : Memory) : Memory :=
  match n with
  | 0 => mem
  | k + 1 =>
    let m := loseFrom map first base k mem
    if mapLoses map (base + k) then m.set (base + k) (Config.drawByte (first + (base + k))) else m

/-- The same for all regions of a list; addresses end at FFFFH. -/
def loseRegions (map : List MemRegion) (first : Nat) (regions : List MemRegion) (mem : Memory) : Memory :=
  match regions with
  | [] => mem
  | r :: rest =>
    let m := loseRegions map first rest mem
    if r.losesAtReset then loseFrom map first r.base (min r.size (65536 - r.base)) m else m

/-- RESET IN and memory (R353): RAM keeps or loses its contents according to `MEMORY_MAP`; a byte that is lost is free, one draw
for each address. Nothing else in memory changes. -/
def State.resetMemory (s : State) : State :=
  { s with mem := loseRegions s.memMap s.draws s.memMap s.mem, draws := s.draws + 65536 }

/-- The events of one slot, in order. RESET IN ends the slot, and RESET OUT shows it (R351); what follows waits for the next
slot. -/
def State.runEvents (s : State) (es : List EnvEvent) : State :=
  match es with
  | [] => s
  | .pin p level :: rest => (s.setPin p level).runEvents rest
  | .master m :: rest => (s.masterAccess m).runEvents rest
  | .platform p :: rest => (s.changePlatform p).runEvents rest
  | .resetIn :: rest => { s.resetMemory with env := rest :: s.env, resetting := true, bus := .resetOut :: s.bus }

/-- HOLD goes low and with it HLDA. -/
def State.releaseHold (s : State) : State :=
  { s with pins := { s.pins with hold := false }, ctl := { s.ctl with hldaFF := false } }

/-- One slot of the script passes. Every hold ends (D12): one that the script does not end, ends with the script (log 6). -/
def State.takeSlot (s : State) : State :=
  match s.env with
  | [] => s.releaseHold
  | slot :: rest => State.runEvents { s with env := rest } slot

/-- HOLD is high where a machine cycle has ended, or where a halted CPU runs none: HLDA rises (R30, R331, R335). -/
def State.grantHold (s : State) : State :=
  if s.pins.hold then { s with ctl := { s.ctl with hldaFF := true } } else s

/-- The CPU needs the bus and waits, slot after slot, until HOLD is removed (R58, R335) or RESET IN arrives. -/
def State.sitOutHold (s : State) (slots : List (List EnvEvent)) : State :=
  if s.ctl.hldaFF && !s.resetting then
    match slots with
    | [] => s.releaseHold
    | slot :: rest => (State.runEvents { s with env := rest } slot).sitOutHold rest
  else s

/-- The CPU is about to run a machine cycle: while HLDA is high it starts none (R30, R335). -/
def State.awaitBus (s : State) : State := s.sitOutHold s.env

/-- Every machine cycle completes: READY, low, goes high after finitely many states (R57, D13, a fairness assumption: log 7), and
waits change no value. A machine cycle goes into the log, and the slot that stands for what happens outside while it runs passes (log 5). -/
def State.runCycle (s : State) (c : BusEvent) : State := State.takeSlot { s with bus := c :: s.bus }

/-- A machine cycle to its end, where a hold is granted (R335). -/
def State.endCycle (s : State) (c : BusEvent) : State := (s.runCycle c).grantHold

/-- The slot before an instruction boundary. No machine cycle ends there, so only a halted CPU grants a hold (R331); any other
grants it at the end of a machine cycle (R335), after RESET IN at the end of the first one (95_test_vectors.md X3). -/
def State.boundarySlot (s : State) : State :=
  let t := s.takeSlot
  if t.ctl.halted then t.grantHold else t

/-- A, B, C, D, E, H, L after RESET IN: free (R34, R353). -/
def Regs.afterReset (n : Nat) : Regs :=
  { a := Config.drawByte n, b := Config.drawByte (n + 1), c := Config.drawByte (n + 2), d := Config.drawByte (n + 3)
    e := Config.drawByte (n + 4), h := Config.drawByte (n + 5), l := Config.drawByte (n + 6) }

/-- The flags after RESET IN: free (R34, R353). -/
def Flags.afterReset (n : Nat) : Flags :=
  { s := Config.drawBit n, z := Config.drawBit (n + 1), ac := Config.drawBit (n + 2), p := Config.drawBit (n + 3)
    cy := Config.drawBit (n + 4) }

/-- RESET IN applied and released (R34, R350 to R353): what is unspecified is drawn afresh; the CPU touches neither memory
nor devices, and pin levels stay; what the platform's RAM does is `State.resetMemory`, when RESET IN arrives. SOD goes low, which the
outside sees if it was high (R267). -/
def State.afterReset (s : State) : State :=
  { s with
    regs := Regs.afterReset s.draws
    flags := Flags.afterReset (s.draws + 7)
    sp := Config.drawWord (s.draws + 12)
    pc := 0
    ctl := Control.afterReset (Config.drawBit (s.draws + 13))
    bus := sodChange s.ctl.sod false ++ s.bus
    draws := s.draws + 14
    resetting := false }

end Sys2Proof.Machine
end

