-- ==== Sys2Proof/Machine/Ops.lean ====
section
/-! DEFINITION. The named operations over bus, stack and registers: the machine cycles (spec 20_memory.md R43 to R50), the
stack (R54, R55), taking an interrupt and returning from one (60_exceptions.md R315, R320), and the operations several
instructions share. Each machine cycle waits for the bus (R335); while RESET IN abandons an instruction (`resetting`, R352) no
further machine cycle runs. -/

namespace Sys2Proof.Machine

/-- `Fetch(a)`: OPCODE FETCH (R44). -/
def State.opcodeFetch (s : State) (a : Word) : Byte × State :=
  let t := s.awaitBus
  if t.resetting then t.draw8
  else
    let r := t.readByte a
    (r.1, r.2.endCycle (.opcodeFetch a r.1))

/-- `MemRead(a, 1)`: MEMORY READ (R45). -/
def State.memRead (s : State) (a : Word) : Byte × State :=
  let t := s.awaitBus
  if t.resetting then t.draw8
  else
    let r := t.readByte a
    (r.1, r.2.endCycle (.memRead a r.1))

/-- A write that RESET IN interrupts, arriving while its machine cycle runs, leaves a free byte at its address (R352, D20).
A write to a device leaves no byte of State; DESIGN CHOICE, unsafe (log 10): the log shows it complete, though whether the
device took it is open. -/
def State.blurWrite (s : State) (a : Word) : State :=
  if s.resetting then
    let d := s.draw8
    d.2.poke a d.1
  else s

/-- `MemWrite(a, 1, v)`: MEMORY WRITE (R46). Once its cycle is over the location holds `v`: a RESET IN in a hold that follows
interrupts no write. -/
def State.memWrite (s : State) (a : Word) (v : Byte) : State :=
  let t := s.awaitBus
  if t.resetting then t else (((t.poke a v).runCycle (.memWrite a v)).blurWrite a).grantHold

/-- `IoRead(p)`: I/O READ (R47). -/
def State.ioRead (s : State) (port : Byte) : Byte × State :=
  let t := s.awaitBus
  if t.resetting then t.draw8
  else
    let r := t.readPort port
    (r.1, r.2.endCycle (.ioRead port r.1))

/-- `IoWrite(p, v)`: I/O WRITE (R48). One that RESET IN interrupts stands in the log as complete: DESIGN CHOICE, unsafe
(log 10). -/
def State.ioWrite (s : State) (port v : Byte) : State :=
  let t := s.awaitBus
  if t.resetting then t else t.endCycle (.ioWrite port v)

/-- `IntaRead()`: ACKNOWLEDGE OF INTR, the `k`-th of one acceptance (R49, D7). -/
def State.intaRead (s : State) (k : AckCycle) : Byte × State :=
  let t := s.awaitBus
  if t.resetting then t.draw8
  else
    let r := t.readResponder k
    (r.1, r.2.endCycle (.intAck r.1))

/-- BUS IDLE (R50). -/
def State.busIdle (s : State) (c : BusEvent) : State :=
  let t := s.awaitBus
  if t.resetting then t else t.endCycle c

/-- `push16(v)` (R54): the high-order byte first, at the higher address. -/
def State.push16 (s : State) (v : Word) : State :=
  let t := (s.memWrite (s.sp - 1) (hiByte v)).memWrite (s.sp - 2) (loByte v)
  { t with sp := s.sp - 2 }

/-- `pop16()` (R55): the low-order byte first, from the lower address. -/
def State.pop16 (s : State) : Word × State :=
  let lo := s.memRead s.sp
  let hi := lo.2.memRead (s.sp + 1)
  (joinBytes hi.1 lo.1, { hi.2 with sp := s.sp + 2 })

/-- The four interrupts that enter by an internal RESTART (R301, R315). -/
inductive Restart where
  | trap
  | rst75
  | rst65
  | rst55
deriving DecidableEq, Repr

/-- Where each branches to (Table 1, R52, R301). -/
def Restart.address : Restart → Word
  | .trap => 0x0024
  | .rst75 => 0x003C
  | .rst65 => 0x0034
  | .rst55 => 0x002C

/-- What EI, DI and a further interrupt do to the enable status saved by TRAP: while it is valid it becomes free (R316). -/
def State.disturbTie (s : State) : State :=
  if s.ctl.tieV then
    let d := s.draw1
    { d.2 with ctl := { s.ctl with tie := d.1 } }
  else s

/-- What the acceptance of each source does of its own (R313, R314, R316). -/
def State.acknowledge (s : State) (src : Restart) : State :=
  match src with
  | .trap =>
    let t := if s.ctl.tieV then s.disturbTie else { s with ctl := { s.ctl with tie := s.ctl.ie } }
    { t with ctl := { t.ctl with trapFF := false, tieV := true } }
  | .rst75 =>
    let t := s.disturbTie
    { t with ctl := { t.ctl with r75 := false } }
  | .rst65 | .rst55 => s.disturbTie

/-- The CPU once a restart interrupt is accepted (R315 (a) to (c)): out of the halt state, the source acknowledged,
interrupts disabled. -/
def State.accepting (s : State) (src : Restart) : State :=
  let t := State.acknowledge { s with ctl := { s.ctl with halted := false } } src
  { t with ctl := { t.ctl with ie := false } }

/-- Taking TRAP, RST 7.5, RST 6.5 or RST 5.5 (R315): accept, one BUS IDLE cycle, push `pc`, branch. Accepted during a hold, the
entry proceeds when the bus has been regained (R58, R322), since each machine cycle waits for it. -/
def State.enterRestart (s : State) (src : Restart) : State :=
  { ((s.accepting src).busIdle .idleAck).push16 s.pc with pc := src.address }

/-- Return (R164): the return from a subroutine and from an interrupt alike (R320). -/
def State.popPc (s : State) : State :=
  let v := s.pop16
  { v.2 with pc := v.1 }

/-- Call (R155): push `pc`, which is already past the instruction, and branch. -/
def State.callTo (s : State) (addr : Word) : State := { s.push16 s.pc with pc := addr }

/-- The conditional jumps (R141). -/
def State.jumpIf (s : State) (k : Cond) (addr : Word) : State := if k.holds s.flags then { s with pc := addr } else s

/-- The conditional calls (R156). -/
def State.callIf (s : State) (k : Cond) (addr : Word) : State := if k.holds s.flags then s.callTo addr else s

/-- The conditional returns (R165). -/
def State.returnIf (s : State) (k : Cond) : State := if k.holds s.flags then s.popPc else s

/-- A written, flags kept. -/
def State.setA (s : State) (v : Byte) : State := { s with regs := { s.regs with a := v } }

/-- A and the flags take a sum or a difference. -/
def State.setSum (s : State) (o : Sum) : State := { s with regs := { s.regs with a := o.r }, flags := s.flags.ofSum o }

/-- A <- A + b + cin, all five flags (R200, R201). -/
def State.addToA (s : State) (b : Byte) (cin : Bool) : State := s.setSum (add8 s.regs.a b cin)

/-- A <- A - b - bin, all five flags (R210, R211). -/
def State.subFromA (s : State) (b : Byte) (bin : Bool) : State := s.setSum (sub8 s.regs.a b bin)

/-- The flags of A - b, A kept (R228). -/
def State.compareA (s : State) (b : Byte) : State := { s with flags := s.flags.ofSum (sub8 s.regs.a b false) }

/-- A takes a logical result, CY cleared, AC as the operation has it (R225 to R227). -/
def State.logicA (s : State) (v : Byte) (ac : Bool) : State :=
  { s with regs := { s.regs with a := v }, flags := s.flags.ofLogic v ac }

/-- A rotated: the new A and the bit that goes to CY, no other flag (R237 to R240). -/
def State.rotateA (s : State) (v : Byte) (c : Bool) : State :=
  { s with regs := { s.regs with a := v }, flags := { s.flags with cy := c } }

/-- The flags of an increment or decrement: CY kept (R185, R186). -/
def State.setCountFlags (s : State) (o : Sum) : State := { s with flags := s.flags.ofSumKeepingCy o }

/-- DAD (R206): two BUS IDLE cycles, then HL <- HL + v and CY its carry out of bit 15. -/
def State.dad (s : State) (v : Word) : State :=
  let t := (s.busIdle .idleDad).busIdle .idleDad
  let u := t.setPair .hl (s.hl + v)
  { u with flags := { u.flags with cy := decide (s.hl.toNat + v.toNat > 65535) } }

end Sys2Proof.Machine
end

