-- ==== Sys2Proof/Machine/AddSub.lean ====
section
/-! DEFINITION. Addition and subtraction (spec 46_add_subtract.md).
One meaning for each row of Table 6-1; `pc` is already past the instruction when a meaning runs (R13). -/

namespace Sys2Proof.Machine

/-- ADD_r (R200): Add register to A. -/
def execAddR (src : Reg) (s : State) : Result := .next (s.addToA (s.getReg src) false)

/-- ADC_r (R201): Add register to A with carry. -/
def execAdcR (src : Reg) (s : State) : Result := .next (s.addToA (s.getReg src) s.flags.cy)

/-- ADD_M (R202): Add memory to A. -/
def execAddM (s : State) : Result :=
  let m := s.memRead s.hl
  .next (m.2.addToA m.1 false)

/-- ADC_M (R203): Add memory to A with carry. -/
def execAdcM (s : State) : Result :=
  let m := s.memRead s.hl
  .next (m.2.addToA m.1 s.flags.cy)

/-- ADI (R204): Add immediate to A. -/
def execAdi (data : Byte) (s : State) : Result := .next (s.addToA data false)

/-- ACI (R205): Add immediate to A with carry. -/
def execAci (data : Byte) (s : State) : Result := .next (s.addToA data s.flags.cy)

/-- DAD_B (R206): Add B & C to H & L. -/
def execDadB (s : State) : Result := .next (s.dad (s.getPair .bc))

/-- DAD_D (R207): Add D & E to H & L. -/
def execDadD (s : State) : Result := .next (s.dad (s.getPair .de))

/-- DAD_H (R208): Add H & L to H & L. -/
def execDadH (s : State) : Result := .next (s.dad (s.getPair .hl))

/-- DAD_SP (R209): Add stack pointer to H & L. -/
def execDadSp (s : State) : Result := .next (s.dad (s.getPair .sp))

/-- SUB_r (R210): Subtract register from A. -/
def execSubR (src : Reg) (s : State) : Result := .next (s.subFromA (s.getReg src) false)

/-- SBB_r (R211): Subtract register from A with borrow. -/
def execSbbR (src : Reg) (s : State) : Result := .next (s.subFromA (s.getReg src) s.flags.cy)

/-- SUB_M (R212): Subtract memory from A. -/
def execSubM (s : State) : Result :=
  let m := s.memRead s.hl
  .next (m.2.subFromA m.1 false)

/-- SBB_M (R213): Subtract memory from A with borrow. -/
def execSbbM (s : State) : Result :=
  let m := s.memRead s.hl
  .next (m.2.subFromA m.1 s.flags.cy)

/-- SUI (R214): Subtract immediate from A. -/
def execSui (data : Byte) (s : State) : Result := .next (s.subFromA data false)

/-- SBI (R215): Subtract immediate from A with borrow. -/
def execSbi (data : Byte) (s : State) : Result := .next (s.subFromA data s.flags.cy)

end Sys2Proof.Machine
end

