-- ==== Sys2Proof/Machine/CallReturn.lean ====
section
/-! DEFINITION. Calls, returns and RST n (spec 43_call_return_restart.md).
One meaning for each row of Table 6-1; `pc` is already past the instruction when a meaning runs (R13). -/

namespace Sys2Proof.Machine

/-- CALL (R155): Call unconditional. -/
def execCall (addr : Word) (s : State) : Result := .next (s.callTo addr)

/-- CC (R156): Call on carry. -/
def execCc (addr : Word) (s : State) : Result := .next (s.callIf .c addr)

/-- CNC (R157): Call on no carry. -/
def execCnc (addr : Word) (s : State) : Result := .next (s.callIf .nc addr)

/-- CZ (R158): Call on zero. -/
def execCz (addr : Word) (s : State) : Result := .next (s.callIf .z addr)

/-- CNZ (R159): Call on no zero. -/
def execCnz (addr : Word) (s : State) : Result := .next (s.callIf .nz addr)

/-- CP (R160): Call on positive. -/
def execCp (addr : Word) (s : State) : Result := .next (s.callIf .p addr)

/-- CM (R161): Call on minus. -/
def execCm (addr : Word) (s : State) : Result := .next (s.callIf .m addr)

/-- CPE (R162): Call on parity even. -/
def execCpe (addr : Word) (s : State) : Result := .next (s.callIf .pe addr)

/-- CPO (R163): Call on parity odd. -/
def execCpo (addr : Word) (s : State) : Result := .next (s.callIf .po addr)

/-- RET (R164): Return. -/
def execRet (s : State) : Result := .next s.popPc

/-- RC (R165): Return on carry. -/
def execRc (s : State) : Result := .next (s.returnIf .c)

/-- RNC (R166): Return on no carry. -/
def execRnc (s : State) : Result := .next (s.returnIf .nc)

/-- RZ (R167): Return on zero. -/
def execRz (s : State) : Result := .next (s.returnIf .z)

/-- RNZ (R168): Return on no zero. -/
def execRnz (s : State) : Result := .next (s.returnIf .nz)

/-- RP (R169): Return on positive. -/
def execRp (s : State) : Result := .next (s.returnIf .p)

/-- RM (R170): Return on minus. -/
def execRm (s : State) : Result := .next (s.returnIf .m)

/-- RPE (R171): Return on parity even. -/
def execRpe (s : State) : Result := .next (s.returnIf .pe)

/-- RPO (R172): Return on parity odd. -/
def execRpo (s : State) : Result := .next (s.returnIf .po)

/-- RST (R173): Restart. The restart address is 8 n. -/
def execRst (n : Nat) (s : State) : Result := .next (s.callTo (BitVec.ofNat 16 (8 * n)))

end Sys2Proof.Machine
end

