-- ==== Sys2Proof/Machine/IncDec.lean ====
section
/-! DEFINITION. Increment and decrement (spec 45_increment_decrement.md).
One meaning for each row of Table 6-1; `pc` is already past the instruction when a meaning runs (R13). -/

namespace Sys2Proof.Machine

/-- INR_r (R185): Increment register. -/
def execInrR (dst : Reg) (s : State) : Result :=
  let o := add8 (s.getReg dst) 0x01 false
  .next ((s.setReg dst o.r).setCountFlags o)

/-- DCR_r (R186): Decrement register. -/
def execDcrR (dst : Reg) (s : State) : Result :=
  let o := sub8 (s.getReg dst) 0x01 false
  .next ((s.setReg dst o.r).setCountFlags o)

/-- INR_M (R187): Increment memory. -/
def execInrM (s : State) : Result :=
  let m := s.memRead s.hl
  let o := add8 m.1 0x01 false
  .next ((m.2.memWrite s.hl o.r).setCountFlags o)

/-- DCR_M (R188): Decrement memory. -/
def execDcrM (s : State) : Result :=
  let m := s.memRead s.hl
  let o := sub8 m.1 0x01 false
  .next ((m.2.memWrite s.hl o.r).setCountFlags o)

/-- INX_B (R189): Increment B & C registers. -/
def execInxB (s : State) : Result := .next (s.setPair .bc (s.getPair .bc + 1))

/-- INX_D (R190): Increment D & E registers. -/
def execInxD (s : State) : Result := .next (s.setPair .de (s.getPair .de + 1))

/-- INX_H (R191): Increment H & L registers. -/
def execInxH (s : State) : Result := .next (s.setPair .hl (s.getPair .hl + 1))

/-- DCX_B (R192): Decrement B & C. -/
def execDcxB (s : State) : Result := .next (s.setPair .bc (s.getPair .bc - 1))

/-- DCX_D (R193): Decrement D & E. -/
def execDcxD (s : State) : Result := .next (s.setPair .de (s.getPair .de - 1))

/-- DCX_H (R194): Decrement H & L. -/
def execDcxH (s : State) : Result := .next (s.setPair .hl (s.getPair .hl - 1))

end Sys2Proof.Machine
end

