-- ==== Sys2Proof/Machine/InputOutput.lean ====
section
/-! DEFINITION. IN and OUT (spec 44_input_output.md).
One meaning for each row of Table 6-1; `pc` is already past the instruction when a meaning runs (R13). -/

namespace Sys2Proof.Machine

/-- IN (R180): Input. One I/O READ at the port. -/
def execInPort (port : Byte) (s : State) : Result :=
  let r := s.ioRead port
  .next (r.2.setA r.1)

/-- OUT (R181): Output. One I/O WRITE at the port. -/
def execOutPort (port : Byte) (s : State) : Result := .next (s.ioWrite port s.regs.a)

end Sys2Proof.Machine
end

