-- ==== Sys2Proof/Machine/Jump.lean ====
section
/-! DEFINITION. Jumps (spec 42_jump.md).
One meaning for each row of Table 6-1; `pc` is already past the instruction when a meaning runs (R13). -/

namespace Sys2Proof.Machine

/-- JMP (R140): Jump unconditional. -/
def execJmp (addr : Word) (s : State) : Result := .next { s with pc := addr }

/-- JC (R141): Jump on carry. -/
def execJc (addr : Word) (s : State) : Result := .next (s.jumpIf .c addr)

/-- JNC (R142): Jump on no carry. -/
def execJnc (addr : Word) (s : State) : Result := .next (s.jumpIf .nc addr)

/-- JZ (R143): Jump on zero. -/
def execJz (addr : Word) (s : State) : Result := .next (s.jumpIf .z addr)

/-- JNZ (R144): Jump on no zero. -/
def execJnz (addr : Word) (s : State) : Result := .next (s.jumpIf .nz addr)

/-- JP (R145): Jump on positive. -/
def execJp (addr : Word) (s : State) : Result := .next (s.jumpIf .p addr)

/-- JM (R146): Jump on minus. -/
def execJm (addr : Word) (s : State) : Result := .next (s.jumpIf .m addr)

/-- JPE (R147): Jump on parity even. -/
def execJpe (addr : Word) (s : State) : Result := .next (s.jumpIf .pe addr)

/-- JPO (R148): Jump on parity odd. -/
def execJpo (addr : Word) (s : State) : Result := .next (s.jumpIf .po addr)

/-- PCHL (R149): H & L to program counter. -/
def execPchl (s : State) : Result := .next { s with pc := s.hl }

end Sys2Proof.Machine
end

