-- ==== Sys2Proof/Machine/LogicalRotate.lean ====
section
/-! DEFINITION. Logical operations, comparisons and rotates (spec 47_logical_rotate.md).
One meaning for each row of Table 6-1; `pc` is already past the instruction when a meaning runs (R13). -/

namespace Sys2Proof.Machine

/-- ANA_r (R225): And register with A. -/
def execAnaR (src : Reg) (s : State) : Result := .next (s.logicA (s.regs.a &&& s.getReg src) true)

/-- XRA_r (R226): Exclusive OR register with A. -/
def execXraR (src : Reg) (s : State) : Result := .next (s.logicA (s.regs.a ^^^ s.getReg src) false)

/-- ORA_r (R227): OR register with A. -/
def execOraR (src : Reg) (s : State) : Result := .next (s.logicA (s.regs.a ||| s.getReg src) false)

/-- CMP_r (R228): Compare register with A. -/
def execCmpR (src : Reg) (s : State) : Result := .next (s.compareA (s.getReg src))

/-- ANA_M (R229): And memory with A. -/
def execAnaM (s : State) : Result :=
  let m := s.memRead s.hl
  .next (m.2.logicA (s.regs.a &&& m.1) true)

/-- XRA_M (R230): Exclusive OR memory with A. -/
def execXraM (s : State) : Result :=
  let m := s.memRead s.hl
  .next (m.2.logicA (s.regs.a ^^^ m.1) false)

/-- ORA_M (R231): OR memory with A. -/
def execOraM (s : State) : Result :=
  let m := s.memRead s.hl
  .next (m.2.logicA (s.regs.a ||| m.1) false)

/-- CMP_M (R232): Compare memory with A. -/
def execCmpM (s : State) : Result :=
  let m := s.memRead s.hl
  .next (m.2.compareA m.1)

/-- ANI (R233): And immediate with A. -/
def execAni (data : Byte) (s : State) : Result := .next (s.logicA (s.regs.a &&& data) true)

/-- XRI (R234): Exclusive OR immediate with A. -/
def execXri (data : Byte) (s : State) : Result := .next (s.logicA (s.regs.a ^^^ data) false)

/-- ORI (R235): OR immediate with A. -/
def execOri (data : Byte) (s : State) : Result := .next (s.logicA (s.regs.a ||| data) false)

/-- CPI (R236): Compare immediate with A. -/
def execCpi (data : Byte) (s : State) : Result := .next (s.compareA data)

/-- RLC (R237): Rotate A left. -/
def execRlc (s : State) : Result :=
  .next (s.rotateA (s.regs.a.extractLsb' 0 7 ++ s.regs.a.extractLsb' 7 1) (s.regs.a.getLsbD 7))

/-- RRC (R238): Rotate A right. -/
def execRrc (s : State) : Result :=
  .next (s.rotateA (s.regs.a.extractLsb' 0 1 ++ s.regs.a.extractLsb' 1 7) (s.regs.a.getLsbD 0))

/-- RAL (R239): Rotate A left through carry. -/
def execRal (s : State) : Result :=
  .next (s.rotateA (s.regs.a.extractLsb' 0 7 ++ BitVec.ofBool s.flags.cy) (s.regs.a.getLsbD 7))

/-- RAR (R240): Rotate A right through carry. -/
def execRar (s : State) : Result :=
  .next (s.rotateA (BitVec.ofBool s.flags.cy ++ s.regs.a.extractLsb' 1 7) (s.regs.a.getLsbD 0))

end Sys2Proof.Machine
end

