-- ==== Sys2Proof/Machine/MoveLoadStore.lean ====
section
/-! DEFINITION. Move, load and store (spec 40_move_load_store.md).
One meaning for each row of Table 6-1; `pc` is already past the instruction when a meaning runs (R13). -/

namespace Sys2Proof.Machine

/-- MOV_r1_r2 (R100): Move register to register. -/
def execMovRR (dst src : Reg) (s : State) : Result := .next (s.setReg dst (s.getReg src))

/-- MOV_M_r (R101): Move register to memory. -/
def execMovMR (src : Reg) (s : State) : Result := .next (s.memWrite s.hl (s.getReg src))

/-- MOV_r_M (R102): Move memory to register. -/
def execMovRM (dst : Reg) (s : State) : Result :=
  let m := s.memRead s.hl
  .next (m.2.setReg dst m.1)

/-- MVI_r (R103): Move immediate register. -/
def execMviR (dst : Reg) (data : Byte) (s : State) : Result := .next (s.setReg dst data)

/-- MVI_M (R104): Move immediate memory. -/
def execMviM (data : Byte) (s : State) : Result := .next (s.memWrite s.hl data)

/-- LXI_B (R105): Load immediate register Pair B & C. -/
def execLxiB (data : Word) (s : State) : Result := .next (s.setPair .bc data)

/-- LXI_D (R106): Load immediate register Pair D & E. -/
def execLxiD (data : Word) (s : State) : Result := .next (s.setPair .de data)

/-- LXI_H (R107): Load immediate register Pair H & L. -/
def execLxiH (data : Word) (s : State) : Result := .next (s.setPair .hl data)

/-- STAX_B (R108): Store A indirect. -/
def execStaxB (s : State) : Result := .next (s.memWrite (s.getPair .bc) s.regs.a)

/-- STAX_D (R109): Store A indirect. -/
def execStaxD (s : State) : Result := .next (s.memWrite (s.getPair .de) s.regs.a)

/-- LDAX_B (R110): Load A indirect. -/
def execLdaxB (s : State) : Result :=
  let m := s.memRead (s.getPair .bc)
  .next (m.2.setA m.1)

/-- LDAX_D (R111): Load A indirect. -/
def execLdaxD (s : State) : Result :=
  let m := s.memRead (s.getPair .de)
  .next (m.2.setA m.1)

/-- STA (R112): Store A direct. -/
def execSta (addr : Word) (s : State) : Result := .next (s.memWrite addr s.regs.a)

/-- LDA (R113): Load A direct. -/
def execLda (addr : Word) (s : State) : Result :=
  let m := s.memRead addr
  .next (m.2.setA m.1)

/-- SHLD (R114): Store H & L direct. -/
def execShld (addr : Word) (s : State) : Result := .next ((s.memWrite addr s.regs.l).memWrite (addr + 1) s.regs.h)

/-- LHLD (R115): Load H & L direct. -/
def execLhld (addr : Word) (s : State) : Result :=
  let lo := s.memRead addr
  let hi := lo.2.memRead (addr + 1)
  .next (hi.2.setPair .hl (joinBytes hi.1 lo.1))

/-- XCHG (R116): Exchange D & E, H & L Registers. -/
def execXchg (s : State) : Result := .next ((s.setPair .hl (s.getPair .de)).setPair .de (s.getPair .hl))

end Sys2Proof.Machine
end

