-- ==== Sys2Proof/Machine/RimSim.lean ====
section
/-! DEFINITION. RIM and SIM (spec 49_rim_sim.md).
One meaning for each row of Table 6-1; `pc` is already past the instruction when a meaning runs (R13). -/

namespace Sys2Proof.Machine

/-- RIM (R265): Read Interrupt Mask. `tieV` decides whether bit 3 is the status saved by TRAP; a pin that nothing drives is
drawn (D14). -/
def execRim (s : State) : Result :=
  let q := s.ctl
  let sid := s.inputLevel s.pins.sid
  let r65 := sid.2.inputLevel s.pins.rst65
  let r55 := r65.2.inputLevel s.pins.rst55
  let status := packByte sid.1 q.r75 r65.1 r55.1 (if q.tieV then q.tie else q.ie) q.m75 q.m65 q.m55
  let t := r55.2.setA status
  .next { t with ctl := { t.ctl with tieV := false } }

/-- SIM (R266): Set Interrupt Mask. The outside sees SOD change (R267). With bit 4 = 1 it discards an RST 7.5 edge
that came before it; one that comes during its own OPCODE FETCH counts as before it (DESIGN CHOICE, log 23). -/
def execSim (s : State) : Result :=
  let a := s.regs.a
  let load := a.getLsbD 3
  let sod := if a.getLsbD 6 then a.getLsbD 7 else s.ctl.sod
  .next { s with
    bus := sodChange s.ctl.sod sod ++ s.bus
    ctl := { s.ctl with
      m75 := if load then a.getLsbD 2 else s.ctl.m75
      m65 := if load then a.getLsbD 1 else s.ctl.m65
      m55 := if load then a.getLsbD 0 else s.ctl.m55
      r75 := s.ctl.r75 && !a.getLsbD 4
      sod := sod } }

end Sys2Proof.Machine
end

