-- ==== Sys2Proof/Machine/SpecialsControl.lean ====
section
/-! DEFINITION. CMA, STC, CMC, DAA, EI, DI, NOP and HLT (spec 48_specials_control.md).
One meaning for each row of Table 6-1; `pc` is already past the instruction when a meaning runs (R13). -/

namespace Sys2Proof.Machine

/-- CMA (R250): Complement A. -/
def execCma (s : State) : Result := .next (s.setA (~~~s.regs.a))

/-- STC (R251): Set carry. -/
def execStc (s : State) : Result := .next { s with flags := { s.flags with cy := true } }

/-- CMC (R252): Complement carry. -/
def execCmc (s : State) : Result := .next { s with flags := { s.flags with cy := !s.flags.cy } }

/-- DAA (R253): Decimal adjust A. The carry is the one of the correction rule, not of the addition. -/
def execDaa (s : State) : Result :=
  let k := daaCorrection s.regs.a s.flags
  .next (s.setSum { add8 s.regs.a k.1 false with cy := k.2 })

/-- EI (R254): Enable interrupts. `eiInh` delays the enabling by one instruction (R361). -/
def execEi (s : State) : Result :=
  let t := s.disturbTie
  .next { t with ctl := { t.ctl with ie := true, eiInh := true } }

/-- DI (R255): Disable Interrupt. -/
def execDi (s : State) : Result :=
  let t := s.disturbTie
  .next { t with ctl := { t.ctl with ie := false } }

/-- NOP (R256): No-operation. -/
def execNop (s : State) : Result := .next s

/-- HLT (R257): Halt. `pc` is already past the byte. -/
def execHlt (s : State) : Result := .next { s with ctl := { s.ctl with halted := true } }

end Sys2Proof.Machine
end

