-- ==== Sys2Proof/Machine/StackOps.lean ====
section
/-! DEFINITION. Stack operations (spec 41_stack_ops.md).
One meaning for each row of Table 6-1; `pc` is already past the instruction when a meaning runs (R13). -/

namespace Sys2Proof.Machine

/-- PUSH_B (R120): Push register Pair B & C on stack. -/
def execPushB (s : State) : Result := .next (s.push16 (s.getPair .bc))

/-- PUSH_D (R121): Push register Pair D & E on stack. -/
def execPushD (s : State) : Result := .next (s.push16 (s.getPair .de))

/-- PUSH_H (R122): Push register Pair H & L on stack. -/
def execPushH (s : State) : Result := .next (s.push16 (s.getPair .hl))

/-- PUSH_PSW (R123): Push A and Flags on stack. The three bits that hold no flag are free (D1). -/
def execPushPsw (s : State) : Result :=
  let x5 := s.draw1
  let x3 := x5.2.draw1
  let x1 := x3.2.draw1
  .next (x1.2.push16 (joinBytes s.regs.a (s.flags.byte x5.1 x3.1 x1.1)))

/-- POP_B (R124): Pop register Pair B & C off stack. -/
def execPopB (s : State) : Result :=
  let v := s.pop16
  .next (v.2.setPair .bc v.1)

/-- POP_D (R125): Pop register Pair D & E off stack. -/
def execPopD (s : State) : Result :=
  let v := s.pop16
  .next (v.2.setPair .de v.1)

/-- POP_H (R126): Pop register Pair H & L off stack. -/
def execPopH (s : State) : Result :=
  let v := s.pop16
  .next (v.2.setPair .hl v.1)

/-- POP_PSW (R127): Pop A and Flags off stack. -/
def execPopPsw (s : State) : Result :=
  let lo := s.memRead s.sp
  let hi := lo.2.memRead (s.sp + 1)
  let t := hi.2.setA hi.1
  .next { t with sp := s.sp + 2, flags := Flags.ofByte lo.1 }

/-- XTHL (R128): Exchange top of stack, H & L. Two reads ascending, two writes descending; SP stays. -/
def execXthl (s : State) : Result :=
  let lo := s.memRead s.sp
  let hi := lo.2.memRead (s.sp + 1)
  let t := (hi.2.memWrite (s.sp + 1) s.regs.h).memWrite s.sp s.regs.l
  .next (t.setPair .hl (joinBytes hi.1 lo.1))

/-- SPHL (R129): H & L to stack pointer. -/
def execSphl (s : State) : Result := .next (s.setPair .sp s.hl)

/-- LXI_SP (R130): Load immediate stack pointer. -/
def execLxiSp (data : Word) (s : State) : Result := .next (s.setPair .sp data)

/-- INX_SP (R131): Increment stack pointer. -/
def execInxSp (s : State) : Result := .next (s.setPair .sp (s.getPair .sp + 1))

/-- DCX_SP (R132): Decrement stack pointer. -/
def execDcxSp (s : State) : Result := .next (s.setPair .sp (s.getPair .sp - 1))

end Sys2Proof.Machine
end

