-- ==== Sys2Proof/Machine/Fetch.lean ====
section
/-! DEFINITION. Fetching an instruction's bytes (spec 30_encoding.md R72, R82; 20_memory.md R44, R45, R60): byte 1 by an
OPCODE FETCH, byte 2 and byte 3 by MEMORY READ, `pc` moving past each (R13). -/

namespace Sys2Proof.Machine

/-- Whether a first byte is a conditional jump or call whose condition is false: it does not read byte 3 (R141, R156). -/
def isUntaken (op : Byte) (f : Flags) : Bool :=
  (decide (op &&& 0xC7 = 0xC2) || decide (op &&& 0xC7 = 0xC4)) && !(Cond.ofCode (midField op)).holds f

/-- Byte 1. -/
def State.fetchOpcode (s : State) : Byte × State :=
  let r := s.opcodeFetch s.pc
  (r.1, { r.2 with pc := s.pc + 1 })

/-- Byte 2 or byte 3. -/
def State.fetchOperand (s : State) : Byte × State :=
  let r := s.memRead s.pc
  (r.1, { r.2 with pc := s.pc + 1 })

/-- Byte 3 of an untaken jump or call: `pc` moves past it and no machine cycle runs. The byte stands as stored; nothing uses
it (log 11). -/
def State.skipOperand (s : State) : Byte × State := (s.peek s.pc, { s with pc := s.pc + 1 })

/-- Byte 3 after first byte `op`. -/
def State.fetchThird (s : State) (op : Byte) : Byte × State :=
  if isUntaken op s.flags then s.skipOperand else s.fetchOperand

/-- The bytes of the instruction at `pc`, as many as its first byte says (R75). -/
def State.fetch (s : State) : List Byte × State :=
  let b1 := s.fetchOpcode
  match instrLength b1.1 with
  | some 2 =>
    let b2 := b1.2.fetchOperand
    ([b1.1, b2.1], b2.2)
  | some 3 =>
    let b2 := b1.2.fetchOperand
    let b3 := b2.2.fetchThird b1.1
    ([b1.1, b2.1, b3.1], b3.2)
  | _ => ([b1.1], b1.2)

end Sys2Proof.Machine
end

