-- ==== Sys2Proof/Machine/Boundary.lean ====
section
/-! DEFINITION. The instruction boundary (spec 60_exceptions.md R310), the acceptance of INTR (R318), one instruction from
memory, and what a step of the machine is. -/

namespace Sys2Proof.Machine

/-- What a boundary can accept. -/
inductive Request where
  | restart (src : Restart)
  | intr
deriving DecidableEq, Repr

/-- Steps 2 and 3 of R310: the request accepted at a boundary, by priority (R301, R302). -/
def State.recognized (s : State) : Option Request :=
  if s.ctl.trapFF && s.pins.trap then some (.restart .trap)
  else if s.ctl.ie && !s.ctl.eiInh then
    if s.ctl.r75 && !s.ctl.m75 then some (.restart .rst75)
    else if asserted s.pins.rst65 && !s.ctl.m65 then some (.restart .rst65)
    else if asserted s.pins.rst55 && !s.ctl.m55 then some (.restart .rst55)
    else if s.pins.intr then some .intr
    else none
  else none

/-- The instruction the responder of INTA supplies, first byte `op` (R318): RST n, or CALL with two further INTA cycles;
`pc` is not moved. Any other byte is refused (D18). -/
def State.runInserted (s : State) (op : Byte) : Result :=
  if op &&& 0xC7 = 0xC7 then exec (.rst (midField op).toNat) s
  else if op = 0xCD then
    let lo := s.intaRead .second
    let hi := lo.2.intaRead .third
    exec (.call (joinBytes hi.1 lo.1)) hi.2
  else .refused (.intaNotRestartOrCall op)

/-- Accepting INTR (R318, R316). Accepted during a hold, the acknowledge waits for the bus (R58, R322). A RESET IN meanwhile or
during the first acknowledge ends it (R352). -/
def State.acceptIntr (s : State) : Result :=
  let t := State.disturbTie { s with ctl := { s.ctl with halted := false } }
  let op := State.intaRead { t with ctl := { t.ctl with ie := false } } .first
  if op.2.resetting then .next op.2 else op.2.runInserted op.1

/-- One instruction from memory: fetch, decode, execute. What the outside does during the fetch comes before the instruction's
effect (DESIGN CHOICE, log 23). `fetch` takes as many bytes as the first one asks for, so what
does not decode has an undefined first byte (R80). A RESET IN during the fetch ends it (R352). -/
def State.runInstr (s : State) : Result :=
  let f := s.fetch
  if f.2.resetting then .next f.2
  else
    match decodeOne f.1 with
    | some i => exec i f.2
    | none => .refused (.undefinedOpcode (f.1.headD 0))

/-- The instruction boundary (R310): `eiInh` is read and cleared; a request is accepted, or a halted CPU stays halted, or
the next instruction runs. While HLDA is high requests are sampled and accepted all the same (R58, R322, R330), but no
instruction starts: its boundary is still to come, so `eiInh` stays (log 18). -/
def State.boundary (s : State) : Result :=
  let t := { s with ctl := { s.ctl with eiInh := false } }
  match s.recognized with
  | some (.restart src) => .next (t.enterRestart src)
  | some .intr => t.acceptIntr
  | none =>
    if s.ctl.halted then .next t
    else if s.ctl.hldaFF then .next s
    else t.runInstr

/-- A step that RESET IN cut short ends in the reset state (R352). -/
def finish (r : Result) : Result :=
  match r with
  | .next t => if t.resetting then .next t.afterReset else .next t
  | .fault f => .fault f
  | .refused x => .refused x

/-- One step. The outside has a slot before the boundary. RESET IN wins over everything (R352). Otherwise the boundary. -/
def State.cpuStep (s : State) : Result :=
  let t := s.boundarySlot
  if t.resetting then .next t.afterReset else finish t.boundary

end Sys2Proof.Machine
end

