-- ==== Sys2Proof/Machine/Step.lean ====
section
/-! DEFINITION. The step function, and how a program stands in memory for it. -/

namespace Sys2Proof.Machine

/-- One step of the machine. -/
def step (s : State) : Host.Outcome State Fault Refusal := s.cpuStep

/-- A byte put into memory from outside, before the run (log 16). -/
def State.load (s : State) (a : Word) (v : Byte) : State := { s with mem := s.mem.set a.toNat v }

/-- The instruction of a word of spec/opcode_table.json stored where the next step fetches. -/
def State.withFetchWord (s : State) (nbits w : Nat) : State :=
  match tableWordBytes nbits w with
  | [b1, b2, b3] => ((s.load s.pc b1).load (s.pc + 1) b2).load (s.pc + 2) b3
  | _ => s

end Sys2Proof.Machine
end

