-- ==== Sys2Proof/Machine/Bus.lean ====
section
/-! DEFINITION. What the pins show (spec 20_memory.md R43, R65; 60_exceptions.md R335; 70_reset_and_hazards.md R351, R371):
functions of an event of the bus log or of the state, no state of their own (10_state.md R33). -/

namespace Sys2Proof.Machine

/-- The level of an output line. -/
inductive Line where
  | low
  | high
  /-- TS, 3-state: high impedance. -/
  | floating
  /-- X, unspecified. -/
  | unspecified
deriving DecidableEq, Repr

/-- The three status lines and the three control signals (R43). -/
structure StatusLines where
  iom : Line
  s1 : Line
  s0 : Line
  rd : Line
  wr : Line
  inta : Line
deriving DecidableEq, Repr

/-- The lines while HLDA is high (R43, R335, R371 THOLD). -/
def holdLines : StatusLines :=
  { iom := .floating, s1 := .unspecified, s0 := .unspecified, rd := .floating, wr := .floating, inta := .high }

/-- The lines in the halt state: Table 2, BI: HALT (R43, R371 THALT). -/
def haltLines : StatusLines :=
  { iom := .floating, s1 := .low, s0 := .low, rd := .floating, wr := .floating, inta := .high }

/-- The lines during RESET IN (R351, R371 TRESET). -/
def resetLines : StatusLines :=
  { iom := .floating, s1 := .unspecified, s0 := .unspecified, rd := .floating, wr := .floating, inta := .high }

/-- Table 2 (R43): what the CPU drives in a machine cycle; in a cycle of the other master it drives nothing. During a reset
the lines are those of TRESET; a change of SOD is no machine cycle. -/
def BusEvent.lines : BusEvent → Option StatusLines
  | .opcodeFetch _ _ => some { iom := .low, s1 := .high, s0 := .high, rd := .low, wr := .high, inta := .high }
  | .memRead _ _ => some { iom := .low, s1 := .high, s0 := .low, rd := .low, wr := .high, inta := .high }
  | .memWrite _ _ => some { iom := .low, s1 := .low, s0 := .high, rd := .high, wr := .low, inta := .high }
  | .ioRead _ _ => some { iom := .high, s1 := .high, s0 := .low, rd := .low, wr := .high, inta := .high }
  | .ioWrite _ _ => some { iom := .high, s1 := .low, s0 := .high, rd := .high, wr := .low, inta := .high }
  | .intAck _ => some { iom := .high, s1 := .high, s0 := .high, rd := .high, wr := .high, inta := .low }
  | .idleDad => some { iom := .low, s1 := .high, s0 := .low, rd := .high, wr := .high, inta := .high }
  | .idleAck => some { iom := .high, s1 := .high, s0 := .high, rd := .high, wr := .high, inta := .high }
  | .master _ => some holdLines
  | .sod _ => none
  | .resetOut => some resetLines

/-- What the CPU puts on the 16 address lines in T1 (R40, R41, R44 to R49): an I/O address stands on both halves; a cycle that
addresses nothing has none, and in a cycle of the other master the CPU floats them. -/
def BusEvent.addressLines : BusEvent → Option Word
  | .opcodeFetch a _ => some a
  | .memRead a _ => some a
  | .memWrite a _ => some a
  | .ioRead port _ => some (joinBytes port port)
  | .ioWrite port _ => some (joinBytes port port)
  | .intAck _ => none
  | .idleDad => none
  | .idleAck => none
  | .master _ => none
  | .sod _ => none
  | .resetOut => none

/-- The byte on AD0 to AD7 in a machine cycle that transfers one (R44 to R50), of the CPU or of the other master (R59). -/
def BusEvent.data : BusEvent → Option Byte
  | .opcodeFetch _ v => some v
  | .memRead _ v => some v
  | .memWrite _ v => some v
  | .ioRead _ v => some v
  | .ioWrite _ v => some v
  | .intAck v => some v
  | .idleDad => none
  | .idleAck => none
  | .master (.memRead _ v) => some v
  | .master (.memWrite _ v) => some v
  | .master (.ioRead _ v) => some v
  | .master (.ioWrite _ v) => some v
  | .sod _ => none
  | .resetOut => none

/-- Whether ALE is generated in T1 (R50, R369): not in the second and third machine cycles of DAD. -/
def BusEvent.ale : BusEvent → Bool
  | .opcodeFetch _ _ => true
  | .memRead _ _ => true
  | .memWrite _ _ => true
  | .ioRead _ _ => true
  | .ioWrite _ _ => true
  | .intAck _ => true
  | .idleDad => false
  | .idleAck => true
  | .master _ => false
  | .sod _ => false
  | .resetOut => false

/-- The pin SOD (R26, R33). -/
def State.sodPin (s : State) : Bool := s.ctl.sod

/-- The pin HLDA (R30, R33). -/
def State.hldaPin (s : State) : Bool := s.ctl.hldaFF

/-- The pin RESET OUT (R33, R351): high while the CPU is being reset, low otherwise. The reset has no duration in the model
(R350): the pulse is the event `resetOut`. -/
def BusEvent.resetOutPin : BusEvent → Bool
  | .resetOut => true
  | .opcodeFetch _ _ | .memRead _ _ | .memWrite _ _ | .ioRead _ _ | .ioWrite _ _ | .intAck _ | .idleDad | .idleAck
  | .master _ | .sod _ => false

/-- The lines between machine cycles: held, halted, or about to start the next one. DESIGN CHOICE (log 22): of a CPU that is
both halted and held they show THOLD, S1 and S0 unspecified, where R29 and R257 alone would give 0, 0. -/
def State.restLines (s : State) : Option StatusLines :=
  if s.ctl.hldaFF then some holdLines else if s.ctl.halted then some haltLines else none

/-- The ten T states (R371). -/
inductive TState where
  | t1
  | t2
  | tWait
  | t3
  | t4
  | t5
  | t6
  | tReset
  | tHalt
  | tHold
deriving DecidableEq, Repr

/-- A row of Table 3. `s` stands for S1 and S0 together, `rdwr` for RD and WR. -/
structure TStateRow where
  s : Line
  iom : Line
  a8to15 : Line
  ad0to7 : Line
  rdwr : Line
  inta : Line
  ale : Line
deriving DecidableEq, Repr

/-- Table 3 (R371). `inta` is whether the cycle is an interrupt acknowledge (note b), `dadIdle` whether it is a BUS IDLE
cycle of DAD (note a). -/
def TState.row (t : TState) (inta dadIdle : Bool) : TStateRow :=
  let x := Line.unspecified
  let ts := Line.floating
  let late : TStateRow :=
    { s := .high, iom := if inta then .high else .low, a8to15 := x, ad0to7 := ts, rdwr := .high, inta := .high
      ale := .low }
  match t with
  | .t1 => { s := x, iom := x, a8to15 := x, ad0to7 := x, rdwr := .high, inta := .high
             ale := if dadIdle then .low else .high }
  | .t2 | .tWait | .t3 => { s := x, iom := x, a8to15 := x, ad0to7 := x, rdwr := x, inta := x, ale := .low }
  | .t4 | .t5 | .t6 => late
  | .tReset => { s := x, iom := ts, a8to15 := ts, ad0to7 := ts, rdwr := ts, inta := .high, ale := .low }
  | .tHalt => { s := .low, iom := ts, a8to15 := ts, ad0to7 := ts, rdwr := ts, inta := .high, ale := .low }
  | .tHold => { s := x, iom := ts, a8to15 := ts, ad0to7 := ts, rdwr := ts, inta := .high, ale := .low }

/-- RESET OUT in each T state (R351): high in TRESET only. -/
def TState.resetOut (t : TState) : Bool :=
  match t with
  | .tReset => true
  | .t1 | .t2 | .tWait | .t3 | .t4 | .t5 | .t6 | .tHalt | .tHold => false

end Sys2Proof.Machine
end

