-- ==== Sys2Proof/Safety.lean ====
section
/-! DEFINITION. The terms claims use: runs in which the outside keeps still, the invariant of the machine, what machine
cycles may do to the state, which instruction writes what (spec 10_state.md R36), and an instruction standing in memory. -/

namespace Sys2Proof.Machine

/-- The outside does nothing: no event is scripted, no reset is under way, no hold is requested or granted. -/
abbrev State.Undisturbed (s : State) : Prop :=
  s.env = [] ∧ s.resetting = false ∧ s.pins.hold = false ∧ s.ctl.hldaFF = false

/-- What every step keeps: memory in canonical form, no reset left half done, EIINH only with IE and never in the halt state
(R28, R361), HLDA only with HOLD (R30, R335). -/
abbrev State.Inv (s : State) : Prop :=
  s.mem.wf = true ∧ s.resetting = false ∧ (s.ctl.eiInh = true → s.ctl.ie = true)
    ∧ ¬(s.ctl.halted = true ∧ s.ctl.eiInh = true) ∧ (s.ctl.hldaFF = true → s.pins.hold = true)

/-- The byte a machine cycle, of the CPU or of the other master, writes to this address. -/
def BusEvent.written (c : BusEvent) (a : Word) : Option Byte :=
  match c with
  | .memWrite b v | .master (.memWrite b v) => if b = a then some v else none
  | .opcodeFetch _ _ | .memRead _ _ | .ioRead _ _ | .ioWrite _ _ | .intAck _ | .idleDad | .idleAck
  | .master (.memRead _ _) | .master (.ioRead _ _) | .master (.ioWrite _ _) | .sod _ | .resetOut => none

/-- The byte a machine cycle, of the CPU or of the other master, reads from this address of memory space. -/
def BusEvent.readFrom (c : BusEvent) (a : Word) : Option Byte :=
  match c with
  | .opcodeFetch b v | .memRead b v | .master (.memRead b v) => if b = a then some v else none
  | .memWrite _ _ | .ioRead _ _ | .ioWrite _ _ | .intAck _ | .idleDad | .idleAck
  | .master (.memWrite _ _) | .master (.ioRead _ _) | .master (.ioWrite _ _) | .sod _ | .resetOut => none

/-- The latest byte that the events of a log, newest first, write to this address. -/
def lastWritten (events : List BusEvent) (a : Word) : Option Byte :=
  match events with
  | [] => none
  | c :: rest => (c.written a).or (lastWritten rest a)

/-- A reset follows directly on a write of the CPU to this address, and may have interrupted it (R352). -/
def ResetOnWrite (events : List BusEvent) (a : Word) : Prop :=
  ∃ (later earlier : List BusEvent) (v : Byte), events = later ++ .resetOut :: .memWrite a v :: earlier

/-- What a location holds after these events from `s` on, as they say: RAM the latest byte written, or its old byte where none
was, unless a reset may have interrupted a write to it, or made it lose its contents; what is not RAM keeps its byte (R45, R46,
R352, R353). -/
def HoldsAfter (s : State) (events : List BusEvent) (a : Word) (v : Byte) : Prop :=
  (s.kindAt a = .ram → v = (lastWritten events a).getD (s.peek a) ∨ ResetOnWrite events a
      ∨ (s.losesAt a = true ∧ .resetOut ∈ events))
  ∧ (s.kindAt a ≠ .ram → v = s.peek a)

/-- Each read of RAM or ROM among these events, newest first, by the CPU or by the other master, found what the location held
after the events before it (R59). -/
def ReadsAsLogged (s : State) (events : List BusEvent) : Prop :=
  ∀ (later earlier : List BusEvent) (c : BusEvent) (a : Word) (v : Byte), events = later ++ c :: earlier →
    c.readFrom a = some v → s.kindAt a = .ram ∨ s.kindAt a = .rom → HoldsAfter s earlier a v

/-- From `s` to `t` events were only added to the log; each byte read and each byte that memory ends with is what they say
(R46, R59, R352). -/
def MemoryAsLogged (s t : State) : Prop :=
  t.memMap = s.memMap ∧ ∃ new : List BusEvent, t.bus = new ++ s.bus ∧ ReadsAsLogged s new
    ∧ ∀ a : Word, HoldsAfter s new a (t.peek a)

/-- How many times RESET IN is still to come. -/
def resetsToCome (env : List (List EnvEvent)) : Nat :=
  match env with
  | [] => 0
  | slot :: rest => (slot.filter fun e => decide (e = .resetIn)).length + resetsToCome rest

/-- All that machine cycles and the outside can do between `s` and `t`: memory through logged writes, the two request
flip-flops set, HLDA, the pins and the model's own fields. No register, flag or control bit besides changes (R58, R335), and
no RESET IN passes unnoticed (R352). -/
structure OutsideOnly (s t : State) : Prop where
  regs : t.regs = s.regs
  flags : t.flags = s.flags
  sp : t.sp = s.sp
  pc : t.pc = s.pc
  ctl : t.ctl = { s.ctl with trapFF := t.ctl.trapFF, r75 := t.ctl.r75, hldaFF := t.ctl.hldaFF }
  trapFF : s.ctl.trapFF = true → t.ctl.trapFF = true
  r75 : s.ctl.r75 = true → t.ctl.r75 = true
  memory : MemoryAsLogged s t
  wf : s.mem.wf = true → t.mem.wf = true
  hold : (s.ctl.hldaFF = true → s.pins.hold = true) → t.ctl.hldaFF = true → t.pins.hold = true
  resetting : s.resetting = true → t.resetting = true
  resets : t.resetting = false → resetsToCome t.env = resetsToCome s.env

/-- Every address reads as before. -/
def SameMemory (s t : State) : Prop := ∀ x : Word, t.peek x = s.peek x

/-- What became of a byte `v` sent to address `a`: RAM holds it, anything else keeps its byte (R46). -/
def Arrived (s t : State) (a : Word) (v : Byte) : Prop :=
  (s.kindAt a = .ram → t.peek a = v) ∧ (s.kindAt a ≠ .ram → t.peek a = s.peek a)

/-- One byte sent to memory: every other address reads as before. -/
def StoresByte (s t : State) (a : Word) (v : Byte) : Prop :=
  (∀ x : Word, x ≠ a → t.peek x = s.peek x) ∧ Arrived s t a v

/-- Two bytes sent to two addresses: every other address reads as before. -/
def StoresTwo (s t : State) (a : Word) (v : Byte) (b : Word) (w : Byte) : Prop :=
  (∀ x : Word, x ≠ a → x ≠ b → t.peek x = s.peek x) ∧ Arrived s t a v ∧ Arrived s t b w

/-- An instruction that completes with one byte stored and nothing else changed but the bus log. -/
def StoresOnly (i : Instr) (s : State) (a : Word) (v : Byte) : Prop :=
  ∃ t, exec i s = .next t ∧ t = { s with mem := t.mem, bus := .memWrite a v :: s.bus } ∧ StoresByte s t a v

/-- The byte a MEMORY READ at an address finds (R45). -/
def State.busByte (s : State) (a : Word) : Byte := (s.readByte a).1

/-- The state after a MEMORY READ at an address with the outside keeping still: the log, and the model's own account of
devices and draws. -/
def State.afterRead (s : State) (a : Word) : State :=
  { (s.readByte a).2 with bus := .memRead a (s.readByte a).1 :: s.bus }

/-- S, Z and P are those of a result (R14, R16, R17). -/
def SzpOf (f : Flags) (v : Byte) : Prop :=
  f.s = v.getLsbD 7 ∧ f.z = decide (v = 0)
    ∧ f.p = decide (((List.range 8).filter fun k => v.getLsbD k).length % 2 = 0)

/-- `r` and the five flags are those of the sum a + b + cin (R18). -/
def IsSum (a b : Byte) (cin : Bool) (r : Byte) (f : Flags) : Prop :=
  r.toNat + 256 * f.cy.toNat = a.toNat + b.toNat + cin.toNat
    ∧ f.ac = decide (15 < a.toNat % 16 + b.toNat % 16 + cin.toNat) ∧ SzpOf f r

/-- `r` and the five flags are those of the difference a - b - bin: CY is the borrow, AC is 1 where bit 4 lends nothing
(R19). -/
def IsDifference (a b : Byte) (bin : Bool) (r : Byte) (f : Flags) : Prop :=
  r.toNat + b.toNat + bin.toNat = a.toNat + 256 * f.cy.toNat
    ∧ f.ac = decide (b.toNat % 16 + bin.toNat ≤ a.toNat % 16) ∧ SzpOf f r

/-- The flags of a logical result `v` (R225 to R235). -/
def IsLogic (v : Byte) (ac : Bool) (f : Flags) : Prop := SzpOf f v ∧ f.cy = false ∧ f.ac = ac

/-- An instruction that completes and stores nothing. -/
def CompletesTo (i : Instr) (s t : State) : Prop := exec i s = .next t ∧ SameMemory s t

/-- An instruction that pushes `pc`, high-order byte first, and branches (R54, R155). -/
def CallsTo (i : Instr) (s : State) (target : Word) : Prop :=
  ∃ t, exec i s = .next t
    ∧ t = { s with
        sp := s.sp - 2
        pc := target
        mem := t.mem
        bus := .memWrite (s.sp - 2) (loByte s.pc) :: .memWrite (s.sp - 1) (hiByte s.pc) :: s.bus }
    ∧ StoresTwo s t (s.sp - 1) (hiByte s.pc) (s.sp - 2) (loByte s.pc)

/-- An instruction that pushes a pair of bytes, `hi` first (R54). -/
def Pushes (i : Instr) (s : State) (hi lo : Byte) : Prop :=
  ∃ t, exec i s = .next t
    ∧ t = { s with
        sp := s.sp - 2
        mem := t.mem
        bus := .memWrite (s.sp - 2) lo :: .memWrite (s.sp - 1) hi :: s.bus }
    ∧ StoresTwo s t (s.sp - 1) hi (s.sp - 2) lo

/-- The low-order byte of the top of the stack, read first (R55). -/
def State.stackLo (s : State) : Byte := s.busByte s.sp

/-- The high-order byte of the top of the stack, read second (R55). -/
def State.stackHi (s : State) : Byte := (s.afterRead s.sp).busByte (s.sp + 1)

/-- The state after the two reads of a pop, SP not yet moved. -/
def State.afterPopReads (s : State) : State := (s.afterRead s.sp).afterRead (s.sp + 1)

/-- An instruction that pops `pc` (R55, R164). -/
def ReturnsFrom (i : Instr) (s : State) : Prop :=
  CompletesTo i s { s.afterPopReads with sp := s.sp + 2, pc := joinBytes s.stackHi s.stackLo }

/-- A packed decimal byte: the two digits of a number below 100. -/
def bcd (n : Nat) : Byte := BitVec.ofNat 8 (16 * (n / 10) + n % 10)

/-- The instructions that write S, Z, AC and P (R36). -/
def writesSzap : Instr → Bool
  | .popPsw | .inrR _ | .dcrR _ | .inrM | .dcrM | .addR _ | .adcR _ | .addM | .adcM | .adi _ | .aci _ | .subR _
  | .sbbR _ | .subM | .sbbM | .sui _ | .sbi _ | .anaR _ | .xraR _ | .oraR _ | .cmpR _ | .anaM | .xraM | .oraM
  | .cmpM | .ani _ | .xri _ | .ori _ | .cpi _ | .daa => true
  | .movRR _ _ | .movMR _ | .movRM _ | .mviR _ _ | .mviM _ | .lxiB _ | .lxiD _ | .lxiH _ | .staxB | .staxD
  | .ldaxB | .ldaxD | .sta _ | .lda _ | .shld _ | .lhld _ | .xchg | .pushB | .pushD | .pushH | .pushPsw | .popB
  | .popD | .popH | .xthl | .sphl | .lxiSp _ | .inxSp | .dcxSp | .jmp _ | .jc _ | .jnc _ | .jz _ | .jnz _
  | .jp _ | .jm _ | .jpe _ | .jpo _ | .pchl | .call _ | .cc _ | .cnc _ | .cz _ | .cnz _ | .cp _ | .cm _
  | .cpe _ | .cpo _ | .ret | .rc | .rnc | .rz | .rnz | .rp | .rm | .rpe | .rpo | .rst _ | .inPort _ | .outPort _
  | .inxB | .inxD | .inxH | .dcxB | .dcxD | .dcxH | .dadB | .dadD | .dadH | .dadSp | .rlc | .rrc | .ral | .rar
  | .cma | .stc | .cmc | .ei | .di | .nop | .hlt | .rim | .sim => false

/-- The instructions that write CY (R36). -/
def writesCy : Instr → Bool
  | .popPsw | .addR _ | .adcR _ | .addM | .adcM | .adi _ | .aci _ | .subR _ | .sbbR _ | .subM | .sbbM | .sui _
  | .sbi _ | .anaR _ | .xraR _ | .oraR _ | .cmpR _ | .anaM | .xraM | .oraM | .cmpM | .ani _ | .xri _ | .ori _
  | .cpi _ | .daa | .dadB | .dadD | .dadH | .dadSp | .rlc | .rrc | .ral | .rar | .stc | .cmc => true
  | .movRR _ _ | .movMR _ | .movRM _ | .mviR _ _ | .mviM _ | .lxiB _ | .lxiD _ | .lxiH _ | .staxB | .staxD
  | .ldaxB | .ldaxD | .sta _ | .lda _ | .shld _ | .lhld _ | .xchg | .pushB | .pushD | .pushH | .pushPsw | .popB
  | .popD | .popH | .xthl | .sphl | .lxiSp _ | .inxSp | .dcxSp | .jmp _ | .jc _ | .jnc _ | .jz _ | .jnz _
  | .jp _ | .jm _ | .jpe _ | .jpo _ | .pchl | .call _ | .cc _ | .cnc _ | .cz _ | .cnz _ | .cp _ | .cm _
  | .cpe _ | .cpo _ | .ret | .rc | .rnc | .rz | .rnz | .rp | .rm | .rpe | .rpo | .rst _ | .inPort _ | .outPort _
  | .inrR _ | .dcrR _ | .inrM | .dcrM | .inxB | .inxD | .inxH | .dcxB | .dcxD | .dcxH | .cma | .ei | .di | .nop
  | .hlt | .rim | .sim => false

/-- The instructions that write SP (R36). -/
def writesSp : Instr → Bool
  | .pushB | .pushD | .pushH | .pushPsw | .popB | .popD | .popH | .popPsw | .sphl | .lxiSp _ | .inxSp | .dcxSp
  | .call _ | .cc _ | .cnc _ | .cz _ | .cnz _ | .cp _ | .cm _ | .cpe _ | .cpo _ | .ret | .rc | .rnc | .rz | .rnz
  | .rp | .rm | .rpe | .rpo | .rst _ => true
  | .movRR _ _ | .movMR _ | .movRM _ | .mviR _ _ | .mviM _ | .lxiB _ | .lxiD _ | .lxiH _ | .staxB | .staxD
  | .ldaxB | .ldaxD | .sta _ | .lda _ | .shld _ | .lhld _ | .xchg | .xthl | .jmp _ | .jc _ | .jnc _ | .jz _
  | .jnz _ | .jp _ | .jm _ | .jpe _ | .jpo _ | .pchl | .inPort _ | .outPort _ | .inrR _ | .dcrR _ | .inrM
  | .dcrM | .inxB | .inxD | .inxH | .dcxB | .dcxD | .dcxH | .addR _ | .adcR _ | .addM | .adcM | .adi _ | .aci _
  | .dadB | .dadD | .dadH | .dadSp | .subR _ | .sbbR _ | .subM | .sbbM | .sui _ | .sbi _ | .anaR _ | .xraR _
  | .oraR _ | .cmpR _ | .anaM | .xraM | .oraM | .cmpM | .ani _ | .xri _ | .ori _ | .cpi _ | .rlc | .rrc | .ral
  | .rar | .cma | .stc | .cmc | .daa | .ei | .di | .nop | .hlt | .rim | .sim => false

/-- The registers an instruction writes (R36). -/
def regsWritten : Instr → List Reg
  | .movRR dst _ | .movRM dst | .mviR dst _ | .inrR dst | .dcrR dst => [dst]
  | .lxiB _ | .popB | .inxB | .dcxB => [.b, .c]
  | .lxiD _ | .popD | .inxD | .dcxD => [.d, .e]
  | .lxiH _ | .lhld _ | .popH | .xthl | .inxH | .dcxH | .dadB | .dadD | .dadH | .dadSp => [.h, .l]
  | .xchg => [.d, .e, .h, .l]
  | .ldaxB | .ldaxD | .lda _ | .popPsw | .inPort _ | .addR _ | .adcR _ | .addM | .adcM | .adi _ | .aci _ | .subR _
  | .sbbR _ | .subM | .sbbM | .sui _ | .sbi _ | .anaR _ | .xraR _ | .oraR _ | .anaM | .xraM | .oraM | .ani _
  | .xri _ | .ori _ | .rlc | .rrc | .ral | .rar | .cma | .daa | .rim => [.a]
  | .movMR _ | .mviM _ | .staxB | .staxD | .sta _ | .shld _ | .pushB | .pushD | .pushH | .pushPsw | .sphl
  | .lxiSp _ | .inxSp | .dcxSp | .jmp _ | .jc _ | .jnc _ | .jz _ | .jnz _ | .jp _ | .jm _ | .jpe _ | .jpo _
  | .pchl | .call _ | .cc _ | .cnc _ | .cz _ | .cnz _ | .cp _ | .cm _ | .cpe _ | .cpo _ | .ret | .rc | .rnc
  | .rz | .rnz | .rp | .rm | .rpe | .rpo | .rst _ | .outPort _ | .inrM | .dcrM | .cmpR _ | .cmpM | .cpi _ | .stc
  | .cmc | .ei | .di | .nop | .hlt | .sim => []

/-- An instruction's bytes stand from an address on, in RAM or ROM. -/
def State.HoldsBytes (s : State) (a : Word) : List Byte → Prop
  | [] => True
  | v :: rest => (s.kindAt a = .ram ∨ s.kindAt a = .rom) ∧ s.peek a = v ∧ s.HoldsBytes (a + 1) rest

/-- The machine cycles of an instruction's fetch, newest first (R72, R141, R156). -/
def State.fetchCycles (s : State) (i : Instr) : List BusEvent :=
  match encode i with
  | [b1] => [.opcodeFetch s.pc b1]
  | [b1, b2] => [.memRead (s.pc + 1) b2, .opcodeFetch s.pc b1]
  | [b1, b2, b3] =>
    if isUntaken b1 s.flags then [.memRead (s.pc + 1) b2, .opcodeFetch s.pc b1]
    else [.memRead (s.pc + 2) b3, .memRead (s.pc + 1) b2, .opcodeFetch s.pc b1]
  | _ => []

/-- The state after the fetch of an instruction with nothing disturbing it: `pc` past it, the fetch in the log, EIINH
cleared by the boundary before it (R13, R310). -/
def State.afterFetch (s : State) (i : Instr) : State :=
  { s with
    pc := s.pc + BitVec.ofNat 16 (encode i).length
    bus := s.fetchCycles i ++ s.bus
    ctl := { s.ctl with eiInh := false } }

end Sys2Proof.Machine
end

