-- ==== Sys2Proof/Certificates/Slice0/Obligations.lean ====
section
/-! DEFINITION. The statements for the provers. `OBLIGATIONS.json` lists them with the rules of spec/ they rest on. Free values
are never given a value: where one arises the statement says only where it stands. -/

open Sys2Proof Sys2Proof.Machine

/-! ## Move, load, store -/

/-- R100, R103, R105 to R107, R116, R129, R130: register moves, immediate loads, XCHG and SPHL. Each writes its destination
only and runs no machine cycle after its fetch. -/
def Obligations.RegisterMoves : Prop :=
  (∀ (dst src : Reg) (s : State), ∃ t, CompletesTo (.movRR dst src) s t ∧ t = { s with regs := t.regs }
      ∧ t.regs.get dst = s.regs.get src ∧ ∀ r, r ≠ dst → t.regs.get r = s.regs.get r)
  ∧ (∀ (dst : Reg) (data : Byte) (s : State), ∃ t, CompletesTo (.mviR dst data) s t ∧ t = { s with regs := t.regs }
      ∧ t.regs.get dst = data ∧ ∀ r, r ≠ dst → t.regs.get r = s.regs.get r)
  ∧ (∀ (data : Word) (s : State),
      CompletesTo (.lxiB data) s { s with regs := { s.regs with b := hiByte data, c := loByte data } }
      ∧ CompletesTo (.lxiD data) s { s with regs := { s.regs with d := hiByte data, e := loByte data } }
      ∧ CompletesTo (.lxiH data) s { s with regs := { s.regs with h := hiByte data, l := loByte data } }
      ∧ CompletesTo (.lxiSp data) s { s with sp := data })
  ∧ ∀ s : State,
      CompletesTo .xchg s { s with
        regs := { s.regs with d := s.regs.h, e := s.regs.l, h := s.regs.d, l := s.regs.e } }
      ∧ CompletesTo .sphl s { s with sp := joinBytes s.regs.h s.regs.l }

/-- R101, R104, R108, R109, R112 with R46: the one-byte stores. Where the outside keeps still each stores the byte at the
address its operand names (HL, BC, DE or the direct address) and changes nothing else. -/
def Obligations.ByteStores : Prop :=
  ∀ s : State, s.Undisturbed →
    (∀ src : Reg, StoresOnly (.movMR src) s s.hl (s.regs.get src))
    ∧ (∀ data : Byte, StoresOnly (.mviM data) s s.hl data)
    ∧ StoresOnly .staxB s (s.getPair .bc) s.regs.a
    ∧ StoresOnly .staxD s (s.getPair .de) s.regs.a
    ∧ (∀ addr : Word, StoresOnly (.sta addr) s addr s.regs.a)

/-- R102, R110, R111, R113 with R45: the one-byte loads. `busByte` and `afterRead` say what one MEMORY READ finds and
leaves; `Obligations.MemoryKinds` says which byte that is. -/
def Obligations.ByteLoads : Prop :=
  ∀ s : State, s.Undisturbed →
    (∀ dst : Reg, ∃ t, CompletesTo (.movRM dst) s t
        ∧ t = { s.afterRead s.hl with regs := t.regs }
        ∧ t.regs.get dst = s.busByte s.hl
        ∧ ∀ r, r ≠ dst → t.regs.get r = s.regs.get r)
    ∧ CompletesTo .ldaxB s { s.afterRead (s.getPair .bc) with
        regs := { s.regs with a := s.busByte (s.getPair .bc) } }
    ∧ CompletesTo .ldaxD s { s.afterRead (s.getPair .de) with
        regs := { s.regs with a := s.busByte (s.getPair .de) } }
    ∧ ∀ addr : Word, CompletesTo (.lda addr) s { s.afterRead addr with regs := { s.regs with a := s.busByte addr } }

/-- R114, R115: SHLD stores L at the address and then H at the next one; LHLD reads them in the same order. -/
def Obligations.HlDirect : Prop :=
  ∀ (addr : Word) (s : State), s.Undisturbed →
    (∃ t, exec (.shld addr) s = .next t
      ∧ t = { s with
          mem := t.mem
          bus := .memWrite (addr + 1) s.regs.h :: .memWrite addr s.regs.l :: s.bus }
      ∧ StoresTwo s t addr s.regs.l (addr + 1) s.regs.h)
    ∧ CompletesTo (.lhld addr) s { (s.afterRead addr).afterRead (addr + 1) with
        regs := { s.regs with l := s.busByte addr, h := (s.afterRead addr).busByte (addr + 1) } }

/-! ## Stack -/

/-- R54, R55: `push16` writes the high-order byte at SP - 1, then the low-order byte at SP - 2, and lowers SP by 2; `pop16`
reads the low-order byte at SP, then the high-order byte at SP + 1, and raises SP by 2. -/
def Obligations.StackOperations : Prop :=
  ∀ s : State, s.Undisturbed →
    (∀ v : Word, StoresTwo s (s.push16 v) (s.sp - 1) (hiByte v) (s.sp - 2) (loByte v)
      ∧ s.push16 v = { s with
          mem := (s.push16 v).mem
          sp := s.sp - 2
          bus := .memWrite (s.sp - 2) (loByte v) :: .memWrite (s.sp - 1) (hiByte v) :: s.bus })
    ∧ s.pop16 = (joinBytes s.stackHi s.stackLo, { s.afterPopReads with sp := s.sp + 2 })

/-- R120 to R122. -/
def Obligations.PushPairs : Prop :=
  ∀ s : State, s.Undisturbed →
    Pushes .pushB s s.regs.b s.regs.c ∧ Pushes .pushD s s.regs.d s.regs.e ∧ Pushes .pushH s s.regs.h s.regs.l

/-- R123, R15: PUSH PSW stores A, then a flag byte whose bits 7, 6, 4, 2 and 0 are the flags; its other three bits are
drawn and unconstrained. -/
def Obligations.PushPsw : Prop :=
  ∀ s : State, s.Undisturbed →
    ∃ (t : State) (f : Byte), exec .pushPsw s = .next t
      ∧ t = { s with
          sp := s.sp - 2
          mem := t.mem
          bus := .memWrite (s.sp - 2) f :: .memWrite (s.sp - 1) s.regs.a :: s.bus
          draws := s.draws + 3 }
      ∧ StoresTwo s t (s.sp - 1) s.regs.a (s.sp - 2) f
      ∧ f.getLsbD 7 = s.flags.s ∧ f.getLsbD 6 = s.flags.z ∧ f.getLsbD 4 = s.flags.ac ∧ f.getLsbD 2 = s.flags.p
      ∧ f.getLsbD 0 = s.flags.cy

/-- R124 to R127, R15: the pops; POP PSW loads the flags from bits 7, 6, 4, 2, 0 of the byte at SP and A from the byte at
SP + 1. -/
def Obligations.Pops : Prop :=
  ∀ s : State, s.Undisturbed →
    CompletesTo .popB s { s.afterPopReads with sp := s.sp + 2, regs := { s.regs with b := s.stackHi, c := s.stackLo } }
    ∧ CompletesTo .popD s { s.afterPopReads with
        sp := s.sp + 2, regs := { s.regs with d := s.stackHi, e := s.stackLo } }
    ∧ CompletesTo .popH s { s.afterPopReads with
        sp := s.sp + 2, regs := { s.regs with h := s.stackHi, l := s.stackLo } }
    ∧ CompletesTo .popPsw s { s.afterPopReads with
        sp := s.sp + 2
        regs := { s.regs with a := s.stackHi }
        flags := { s := s.stackLo.getLsbD 7, z := s.stackLo.getLsbD 6, ac := s.stackLo.getLsbD 4
                   p := s.stackLo.getLsbD 2, cy := s.stackLo.getLsbD 0 } }

/-- R128: XTHL exchanges L with the byte at SP and H with the byte at SP + 1, in two reads and two writes; SP stays. -/
def Obligations.ExchangeStackTop : Prop :=
  ∀ s : State, s.Undisturbed →
    ∃ t, exec .xthl s = .next t
      ∧ t = { s.afterPopReads with
          regs := { s.regs with h := s.stackHi, l := s.stackLo }
          mem := t.mem
          bus := .memWrite s.sp s.regs.l :: .memWrite (s.sp + 1) s.regs.h :: s.afterPopReads.bus }
      ∧ StoresTwo s t s.sp s.regs.l (s.sp + 1) s.regs.h

/-- R189 to R194, R131, R132: INX and DCX count a pair modulo 65536 and touch no flag. -/
def Obligations.PairCounts : Prop :=
  ∀ s : State,
    (∃ t, CompletesTo .inxB s t ∧ t = { s with regs := { s.regs with b := t.regs.b, c := t.regs.c } }
      ∧ joinBytes t.regs.b t.regs.c = joinBytes s.regs.b s.regs.c + 1)
    ∧ (∃ t, CompletesTo .inxD s t ∧ t = { s with regs := { s.regs with d := t.regs.d, e := t.regs.e } }
      ∧ joinBytes t.regs.d t.regs.e = joinBytes s.regs.d s.regs.e + 1)
    ∧ (∃ t, CompletesTo .inxH s t ∧ t = { s with regs := { s.regs with h := t.regs.h, l := t.regs.l } }
      ∧ joinBytes t.regs.h t.regs.l = joinBytes s.regs.h s.regs.l + 1)
    ∧ CompletesTo .inxSp s { s with sp := s.sp + 1 }
    ∧ (∃ t, CompletesTo .dcxB s t ∧ t = { s with regs := { s.regs with b := t.regs.b, c := t.regs.c } }
      ∧ joinBytes t.regs.b t.regs.c = joinBytes s.regs.b s.regs.c - 1)
    ∧ (∃ t, CompletesTo .dcxD s t ∧ t = { s with regs := { s.regs with d := t.regs.d, e := t.regs.e } }
      ∧ joinBytes t.regs.d t.regs.e = joinBytes s.regs.d s.regs.e - 1)
    ∧ (∃ t, CompletesTo .dcxH s t ∧ t = { s with regs := { s.regs with h := t.regs.h, l := t.regs.l } }
      ∧ joinBytes t.regs.h t.regs.l = joinBytes s.regs.h s.regs.l - 1)
    ∧ CompletesTo .dcxSp s { s with sp := s.sp - 1 }

/-! ## Jump, call, return, restart -/

/-- R140 to R149, R20: a jump writes `pc` if its condition holds and does nothing else. -/
def Obligations.Jumps : Prop :=
  ∀ (addr : Word) (s : State),
    CompletesTo (.jmp addr) s { s with pc := addr }
    ∧ CompletesTo (.jnz addr) s (if s.flags.z = false then { s with pc := addr } else s)
    ∧ CompletesTo (.jz addr) s (if s.flags.z = true then { s with pc := addr } else s)
    ∧ CompletesTo (.jnc addr) s (if s.flags.cy = false then { s with pc := addr } else s)
    ∧ CompletesTo (.jc addr) s (if s.flags.cy = true then { s with pc := addr } else s)
    ∧ CompletesTo (.jpo addr) s (if s.flags.p = false then { s with pc := addr } else s)
    ∧ CompletesTo (.jpe addr) s (if s.flags.p = true then { s with pc := addr } else s)
    ∧ CompletesTo (.jp addr) s (if s.flags.s = false then { s with pc := addr } else s)
    ∧ CompletesTo (.jm addr) s (if s.flags.s = true then { s with pc := addr } else s)
    ∧ CompletesTo .pchl s { s with pc := joinBytes s.regs.h s.regs.l }

/-- R155 to R163: CALL, and a conditional call whose condition holds, push `pc` and branch; with the condition false nothing
is pushed and nothing changes. -/
def Obligations.Calls : Prop :=
  ∀ (addr : Word) (s : State), s.Undisturbed →
    CallsTo (.call addr) s addr
    ∧ (if s.flags.z = false then CallsTo (.cnz addr) s addr else CompletesTo (.cnz addr) s s)
    ∧ (if s.flags.z = true then CallsTo (.cz addr) s addr else CompletesTo (.cz addr) s s)
    ∧ (if s.flags.cy = false then CallsTo (.cnc addr) s addr else CompletesTo (.cnc addr) s s)
    ∧ (if s.flags.cy = true then CallsTo (.cc addr) s addr else CompletesTo (.cc addr) s s)
    ∧ (if s.flags.p = false then CallsTo (.cpo addr) s addr else CompletesTo (.cpo addr) s s)
    ∧ (if s.flags.p = true then CallsTo (.cpe addr) s addr else CompletesTo (.cpe addr) s s)
    ∧ (if s.flags.s = false then CallsTo (.cp addr) s addr else CompletesTo (.cp addr) s s)
    ∧ (if s.flags.s = true then CallsTo (.cm addr) s addr else CompletesTo (.cm addr) s s)

/-- R164 to R172: RET, and a conditional return whose condition holds, pop `pc`; with the condition false no memory is read
and nothing changes. -/
def Obligations.Returns : Prop :=
  ∀ s : State, s.Undisturbed →
    ReturnsFrom .ret s
    ∧ (if s.flags.z = false then ReturnsFrom .rnz s else CompletesTo .rnz s s)
    ∧ (if s.flags.z = true then ReturnsFrom .rz s else CompletesTo .rz s s)
    ∧ (if s.flags.cy = false then ReturnsFrom .rnc s else CompletesTo .rnc s s)
    ∧ (if s.flags.cy = true then ReturnsFrom .rc s else CompletesTo .rc s s)
    ∧ (if s.flags.p = false then ReturnsFrom .rpo s else CompletesTo .rpo s s)
    ∧ (if s.flags.p = true then ReturnsFrom .rpe s else CompletesTo .rpe s s)
    ∧ (if s.flags.s = false then ReturnsFrom .rp s else CompletesTo .rp s s)
    ∧ (if s.flags.s = true then ReturnsFrom .rm s else CompletesTo .rm s s)

/-- R173: RST n pushes `pc` and branches to 8 n. -/
def Obligations.RestartInstruction : Prop :=
  ∀ (n : Nat) (s : State), n < 8 → s.Undisturbed → CallsTo (.rst n) s (BitVec.ofNat 16 (8 * n))

/-- R155, R164: a RET after a CALL comes back to the instruction after the CALL with SP as before, if the two stack bytes
are RAM. -/
def Obligations.CallThenReturn : Prop :=
  ∀ (addr : Word) (s : State), s.Undisturbed → s.kindAt (s.sp - 1) = .ram → s.kindAt (s.sp - 2) = .ram →
    ∃ t u, exec (.call addr) s = .next t ∧ exec .ret t = .next u ∧ t.pc = addr ∧ u.pc = s.pc ∧ u.sp = s.sp
      ∧ u.regs = s.regs ∧ u.flags = s.flags ∧ u.ctl = s.ctl

/-! ## Input and output -/

/-- R180, R181, R47, R5, R6: IN loads A with what the bus holds in one I/O READ of the port, OUT puts A on the bus in one I/O WRITE; no
memory, no flag. What the bus holds is what `PORT_MAP` has at that port: the first device that holds the port gives its next
byte, or the one it drives from then on; where it drives none, or no device holds the port, the byte is a free value, one draw
(D5; log 4, log 8). A read of one port leaves the devices at other ports, the memory-mapped devices and the INTA responder as
they are. -/
def Obligations.InputOutput : Prop :=
  (∀ (port : Byte) (s : State), s.Undisturbed →
    CompletesTo (.inPort port) s { (s.readPort port).2 with
      regs := { s.regs with a := (s.readPort port).1 }
      bus := .ioRead port (s.readPort port).1 :: s.bus }
    ∧ CompletesTo (.outPort port) s { s with bus := .ioWrite port s.regs.a :: s.bus })
  ∧ (∀ (s : State) (port : Byte),
      let found := takeAnswer s.platform.ports port.toNat
      let t : State := { s with platform := { s.platform with ports := found.2 } }
      (∀ v, found.1 = some v → s.readPort port = (v, t))
      ∧ (found.1 = none → (s.readPort port).2 = { t with draws := s.draws + 1 }))
  ∧ (∀ n, takeAnswer [] n = (none, []))
  ∧ (∀ (d : Device) (ds : List Device) (n : Nat), d.base ≤ n → n < d.base + d.size →
      takeAnswer (d :: ds) n = (d.coming.headD d.after, { d with coming := d.coming.tail } :: ds))
  ∧ (∀ (d : Device) (ds : List Device) (n : Nat), n < d.base ∨ d.base + d.size ≤ n →
      takeAnswer (d :: ds) n = ((takeAnswer ds n).1, d :: (takeAnswer ds n).2))
  ∧ ∀ (s : State) (port other : Byte),
      (∀ d ∈ s.platform.ports, ¬(d.holds port.toNat = true ∧ d.holds other.toNat = true)) →
      (takeAnswer (s.readPort port).2.platform.ports other.toNat).1 = (takeAnswer s.platform.ports other.toNat).1

/-! ## Increment and decrement -/

/-- R185, R186: INR r and DCR r count a register modulo 256; S, Z, AC, P are those of the sum or difference, CY stays. -/
def Obligations.CountRegister : Prop :=
  ∀ (dst : Reg) (s : State),
    (∃ t f, CompletesTo (.inrR dst) s t ∧ t = { s with regs := t.regs, flags := t.flags }
      ∧ t.regs.get dst = s.regs.get dst + 1 ∧ (∀ r, r ≠ dst → t.regs.get r = s.regs.get r)
      ∧ IsSum (s.regs.get dst) 1 false (t.regs.get dst) f ∧ t.flags = { f with cy := s.flags.cy })
    ∧ ∃ t f, CompletesTo (.dcrR dst) s t ∧ t = { s with regs := t.regs, flags := t.flags }
      ∧ t.regs.get dst = s.regs.get dst - 1 ∧ (∀ r, r ≠ dst → t.regs.get r = s.regs.get r)
      ∧ IsDifference (s.regs.get dst) 1 false (t.regs.get dst) f ∧ t.flags = { f with cy := s.flags.cy }

/-- R187, R188: INR M and DCR M read the byte at HL, write it back counted, and set the flags as INR r and DCR r; the flags
follow the counted value even where the write is lost. -/
def Obligations.CountMemory : Prop :=
  ∀ s : State, s.Undisturbed →
    (∃ t f v, exec .inrM s = .next t
      ∧ IsSum (s.busByte s.hl) 1 false v f
      ∧ t = { s.afterRead s.hl with
          mem := t.mem
          flags := { f with cy := s.flags.cy }
          bus := .memWrite s.hl v :: (s.afterRead s.hl).bus }
      ∧ StoresByte s t s.hl v)
    ∧ ∃ t f v, exec .dcrM s = .next t
      ∧ IsDifference (s.busByte s.hl) 1 false v f
      ∧ t = { s.afterRead s.hl with
          mem := t.mem
          flags := { f with cy := s.flags.cy }
          bus := .memWrite s.hl v :: (s.afterRead s.hl).bus }
      ∧ StoresByte s t s.hl v

/-! ## Add, subtract, compare -/

/-- R16, R17, R20: `parity8`, `szp`, and the eight conditions with their codes. -/
def Obligations.ParitySzpConditions : Prop :=
  (∀ v : Byte, parity8 v = decide (((List.range 8).filter fun k => v.getLsbD k).length % 2 = 0))
  ∧ parity8 0x00 = true ∧ parity8 0x01 = false ∧ parity8 0x03 = true ∧ parity8 0xFF = true
  ∧ (∀ (f : Flags) (v : Byte),
      (f.szp v).s = v.getLsbD 7 ∧ (f.szp v).z = decide (v = 0) ∧ (f.szp v).p = parity8 v
      ∧ (f.szp v).ac = f.ac ∧ (f.szp v).cy = f.cy)
  ∧ ∀ f : Flags,
      (Cond.ofCode 0b000).holds f = !f.z ∧ (Cond.ofCode 0b001).holds f = f.z
      ∧ (Cond.ofCode 0b010).holds f = !f.cy ∧ (Cond.ofCode 0b011).holds f = f.cy
      ∧ (Cond.ofCode 0b100).holds f = !f.p ∧ (Cond.ofCode 0b101).holds f = f.p
      ∧ (Cond.ofCode 0b110).holds f = !f.s ∧ (Cond.ofCode 0b111).holds f = f.s

/-- R18, R19: the adder and the subtracter, with the rules' examples. -/
def Obligations.AdderAndSubtracter : Prop :=
  (∀ (a b : Byte) (cin : Bool),
    (add8 a b cin).r.toNat = (a.toNat + b.toNat + cin.toNat) % 256
    ∧ (add8 a b cin).cy = decide (a.toNat + b.toNat + cin.toNat > 255)
    ∧ (add8 a b cin).ac = decide (a.toNat % 16 + b.toNat % 16 + cin.toNat > 15))
  ∧ (∀ (a b : Byte) (bin : Bool),
    ((sub8 a b bin).r.toNat : Int) = ((a.toNat : Int) - b.toNat - bin.toNat) % 256
    ∧ (sub8 a b bin).cy = decide (a.toNat < b.toNat + bin.toNat)
    ∧ (sub8 a b bin).ac = decide (a.toNat % 16 + (15 - b.toNat % 16) + (1 - bin.toNat) > 15))
  ∧ add8 0x3A 0xC6 false = { r := 0x00, cy := true, ac := true }
  ∧ add8 0x7F 0x01 false = { r := 0x80, cy := false, ac := true }
  ∧ add8 0xFF 0x00 true = { r := 0x00, cy := true, ac := true }
  ∧ sub8 0x3E 0x3E false = { r := 0x00, cy := false, ac := true }
  ∧ sub8 0x00 0x01 false = { r := 0xFF, cy := true, ac := false }
  ∧ sub8 0x10 0x01 false = { r := 0x0F, cy := false, ac := false }
  ∧ sub8 0x04 0x02 true = { r := 0x01, cy := false, ac := true }
  ∧ sub8 0x00 0xFF true = { r := 0x00, cy := true, ac := false }

/-- R200, R201, R204, R205: ADD r, ADC r, ADI, ACI write A and the five flags, and nothing else. -/
def Obligations.AddRegisterImmediate : Prop :=
  ∀ s : State,
    (∀ src : Reg, ∃ t, CompletesTo (.addR src) s t
      ∧ t = { s with regs := { s.regs with a := t.regs.a }, flags := t.flags }
      ∧ IsSum s.regs.a (s.regs.get src) false t.regs.a t.flags)
    ∧ (∀ src : Reg, ∃ t, CompletesTo (.adcR src) s t
      ∧ t = { s with regs := { s.regs with a := t.regs.a }, flags := t.flags }
      ∧ IsSum s.regs.a (s.regs.get src) s.flags.cy t.regs.a t.flags)
    ∧ (∀ data : Byte, ∃ t, CompletesTo (.adi data) s t
      ∧ t = { s with regs := { s.regs with a := t.regs.a }, flags := t.flags }
      ∧ IsSum s.regs.a data false t.regs.a t.flags)
    ∧ ∀ data : Byte, ∃ t, CompletesTo (.aci data) s t
      ∧ t = { s with regs := { s.regs with a := t.regs.a }, flags := t.flags }
      ∧ IsSum s.regs.a data s.flags.cy t.regs.a t.flags

/-- R210, R211, R214, R215: SUB r, SBB r, SUI, SBI write A and the five flags, and nothing else. -/
def Obligations.SubRegisterImmediate : Prop :=
  ∀ s : State,
    (∀ src : Reg, ∃ t, CompletesTo (.subR src) s t
      ∧ t = { s with regs := { s.regs with a := t.regs.a }, flags := t.flags }
      ∧ IsDifference s.regs.a (s.regs.get src) false t.regs.a t.flags)
    ∧ (∀ src : Reg, ∃ t, CompletesTo (.sbbR src) s t
      ∧ t = { s with regs := { s.regs with a := t.regs.a }, flags := t.flags }
      ∧ IsDifference s.regs.a (s.regs.get src) s.flags.cy t.regs.a t.flags)
    ∧ (∀ data : Byte, ∃ t, CompletesTo (.sui data) s t
      ∧ t = { s with regs := { s.regs with a := t.regs.a }, flags := t.flags }
      ∧ IsDifference s.regs.a data false t.regs.a t.flags)
    ∧ ∀ data : Byte, ∃ t, CompletesTo (.sbi data) s t
      ∧ t = { s with regs := { s.regs with a := t.regs.a }, flags := t.flags }
      ∧ IsDifference s.regs.a data s.flags.cy t.regs.a t.flags

/-- R202, R203, R212, R213: ADD M, ADC M, SUB M, SBB M take their operand in one MEMORY READ at HL. -/
def Obligations.AddSubMemory : Prop :=
  ∀ s : State, s.Undisturbed →
    (∃ t, CompletesTo .addM s t
      ∧ t = { s.afterRead s.hl with
          regs := { s.regs with a := t.regs.a }, flags := t.flags }
      ∧ IsSum s.regs.a (s.busByte s.hl) false t.regs.a t.flags)
    ∧ (∃ t, CompletesTo .adcM s t
      ∧ t = { s.afterRead s.hl with
          regs := { s.regs with a := t.regs.a }, flags := t.flags }
      ∧ IsSum s.regs.a (s.busByte s.hl) s.flags.cy t.regs.a t.flags)
    ∧ (∃ t, CompletesTo .subM s t
      ∧ t = { s.afterRead s.hl with
          regs := { s.regs with a := t.regs.a }, flags := t.flags }
      ∧ IsDifference s.regs.a (s.busByte s.hl) false t.regs.a t.flags)
    ∧ ∃ t, CompletesTo .sbbM s t
      ∧ t = { s.afterRead s.hl with
          regs := { s.regs with a := t.regs.a }, flags := t.flags }
      ∧ IsDifference s.regs.a (s.busByte s.hl) s.flags.cy t.regs.a t.flags

/-- R228, R232, R236: a comparison writes the flags of the subtraction and no register; Z says equal, CY says A is less. -/
def Obligations.Compares : Prop :=
  (∀ (src : Reg) (s : State), ∃ t r, CompletesTo (.cmpR src) s t ∧ t = { s with flags := t.flags }
    ∧ IsDifference s.regs.a (s.regs.get src) false r t.flags
    ∧ (t.flags.z = true ↔ s.regs.a = s.regs.get src)
    ∧ (t.flags.cy = true ↔ s.regs.a.toNat < (s.regs.get src).toNat))
  ∧ (∀ (data : Byte) (s : State), ∃ t r, CompletesTo (.cpi data) s t ∧ t = { s with flags := t.flags }
    ∧ IsDifference s.regs.a data false r t.flags
    ∧ (t.flags.z = true ↔ s.regs.a = data) ∧ (t.flags.cy = true ↔ s.regs.a.toNat < data.toNat))
  ∧ ∀ s : State, s.Undisturbed → ∃ t r, CompletesTo .cmpM s t
    ∧ t = { s.afterRead s.hl with flags := t.flags }
    ∧ IsDifference s.regs.a (s.busByte s.hl) false r t.flags
    ∧ (t.flags.z = true ↔ s.regs.a = s.busByte s.hl)
    ∧ (t.flags.cy = true ↔ s.regs.a.toNat < (s.busByte s.hl).toNat)

/-- R206 to R209: DAD adds a pair to HL in two BUS IDLE cycles; CY is the carry out of bit 15 and the other flags stay. -/
def Obligations.DoubleAdd : Prop :=
  ∀ s : State, s.Undisturbed →
    ∀ p ∈ [(Instr.dadB, joinBytes s.regs.b s.regs.c), (.dadD, joinBytes s.regs.d s.regs.e),
        (.dadH, joinBytes s.regs.h s.regs.l), (.dadSp, s.sp)],
      ∃ t, CompletesTo p.1 s t
        ∧ t = { s with
            regs := { s.regs with h := t.regs.h, l := t.regs.l }
            flags := { s.flags with cy := t.flags.cy }
            bus := .idleDad :: .idleDad :: s.bus }
        ∧ (joinBytes t.regs.h t.regs.l).toNat + 65536 * t.flags.cy.toNat
            = (joinBytes s.regs.h s.regs.l).toNat + p.2.toNat

/-! ## Logical operations and rotates -/

/-- R225 to R227, R229 to R231, R233 to R235: the logical operations write A and all five flags; CY is 0, AC is 1 for AND and
0 for the others. -/
def Obligations.LogicalOperations : Prop :=
  (∀ (s : State) (src : Reg) (i : Instr) (v : Byte) (ac : Bool),
    (i, v, ac) ∈ [(Instr.anaR src, s.regs.a &&& s.regs.get src, true),
      (.xraR src, s.regs.a ^^^ s.regs.get src, false), (.oraR src, s.regs.a ||| s.regs.get src, false)] →
    ∃ t, CompletesTo i s t ∧ t = { s with regs := { s.regs with a := v }, flags := t.flags } ∧ IsLogic v ac t.flags)
  ∧ (∀ (s : State) (data : Byte) (i : Instr) (v : Byte) (ac : Bool),
    (i, v, ac) ∈ [(Instr.ani data, s.regs.a &&& data, true), (.xri data, s.regs.a ^^^ data, false),
      (.ori data, s.regs.a ||| data, false)] →
    ∃ t, CompletesTo i s t ∧ t = { s with regs := { s.regs with a := v }, flags := t.flags } ∧ IsLogic v ac t.flags)
  ∧ ∀ (s : State) (i : Instr) (v : Byte) (ac : Bool), s.Undisturbed →
    (i, v, ac) ∈ [(Instr.anaM, s.regs.a &&& s.busByte s.hl, true),
      (.xraM, s.regs.a ^^^ s.busByte s.hl, false),
      (.oraM, s.regs.a ||| s.busByte s.hl, false)] →
    ∃ t, CompletesTo i s t
      ∧ t = { s.afterRead s.hl with regs := { s.regs with a := v }, flags := t.flags }
      ∧ IsLogic v ac t.flags

/-- R237 to R240: the rotates, bit by bit; CY is the only flag written. -/
def Obligations.Rotates : Prop :=
  ∀ s : State,
    (∃ t, CompletesTo .rlc s t
      ∧ t = { s with regs := { s.regs with a := t.regs.a }, flags := { s.flags with cy := s.regs.a.getLsbD 7 } }
      ∧ (∀ k, k < 7 → t.regs.a.getLsbD (k + 1) = s.regs.a.getLsbD k)
      ∧ t.regs.a.getLsbD 0 = s.regs.a.getLsbD 7)
    ∧ (∃ t, CompletesTo .rrc s t
      ∧ t = { s with regs := { s.regs with a := t.regs.a }, flags := { s.flags with cy := s.regs.a.getLsbD 0 } }
      ∧ (∀ k, k < 7 → t.regs.a.getLsbD k = s.regs.a.getLsbD (k + 1))
      ∧ t.regs.a.getLsbD 7 = s.regs.a.getLsbD 0)
    ∧ (∃ t, CompletesTo .ral s t
      ∧ t = { s with regs := { s.regs with a := t.regs.a }, flags := { s.flags with cy := s.regs.a.getLsbD 7 } }
      ∧ (∀ k, k < 7 → t.regs.a.getLsbD (k + 1) = s.regs.a.getLsbD k)
      ∧ t.regs.a.getLsbD 0 = s.flags.cy)
    ∧ ∃ t, CompletesTo .rar s t
      ∧ t = { s with regs := { s.regs with a := t.regs.a }, flags := { s.flags with cy := s.regs.a.getLsbD 0 } }
      ∧ (∀ k, k < 7 → t.regs.a.getLsbD k = s.regs.a.getLsbD (k + 1))
      ∧ t.regs.a.getLsbD 7 = s.flags.cy

/-! ## Specials, control, RIM, SIM -/

/-- R250 to R252, R256, R257: CMA, STC, CMC, NOP, HLT. -/
def Obligations.SmallControl : Prop :=
  ∀ s : State,
    CompletesTo .cma s { s with regs := { s.regs with a := ~~~s.regs.a } }
    ∧ CompletesTo .stc s { s with flags := { s.flags with cy := true } }
    ∧ CompletesTo .cmc s { s with flags := { s.flags with cy := !s.flags.cy } }
    ∧ CompletesTo .nop s s
    ∧ CompletesTo .hlt s { s with ctl := { s.ctl with halted := true } }

/-- R253: DAA adds 06H if the low digit is over 9 or AC is 1, and 60H if the high digit is over 9, CY is 1, or both digits
will overflow together; CY is set with the high correction and otherwise kept, the other flags are those of the sum. -/
def Obligations.DecimalAdjust : Prop :=
  ∀ s : State, ∃ t f,
    let lo := s.regs.a.toNat % 16
    let hi := s.regs.a.toNat / 16
    let low := lo > 9 ∨ s.flags.ac = true
    let high := hi > 9 ∨ s.flags.cy = true ∨ (hi ≥ 9 ∧ lo > 9)
    CompletesTo .daa s t
    ∧ t = { s with regs := { s.regs with a := t.regs.a }, flags := t.flags }
    ∧ (∀ corr : Nat, corr = (if low then 6 else 0) + (if high then 96 else 0) →
        IsSum s.regs.a (BitVec.ofNat 8 corr) false t.regs.a f)
    ∧ t.flags = { f with cy := decide high }

/-- R253's purpose: after ADD or ADC on packed decimal bytes, DAA leaves the decimal sum in A and the decimal carry in CY. -/
def Obligations.DecimalAddition : Prop :=
  ∀ (s : State) (src : Reg) (x y : Nat), x < 100 → y < 100 → s.regs.a = bcd x → s.regs.get src = bcd y →
    ∀ p ∈ [(Instr.addR src, 0), (.adcR src, s.flags.cy.toNat)],
      ∃ t u, exec p.1 s = .next t ∧ exec .daa t = .next u
        ∧ u.regs.a = bcd ((x + y + p.2) % 100) ∧ u.flags.cy = decide (100 ≤ x + y + p.2)

/-- R254, R255, R316: EI sets IE and EIINH, DI clears IE; a TRAP-saved status that is still valid becomes a free value. -/
def Obligations.EnableDisable : Prop :=
  ∀ s : State,
    (∃ t, CompletesTo .ei s t
      ∧ t = { s with
          ctl := { s.ctl with ie := true, eiInh := true, tie := t.ctl.tie }
          draws := s.draws + s.ctl.tieV.toNat }
      ∧ (s.ctl.tieV = false → t.ctl.tie = s.ctl.tie))
    ∧ ∃ t, CompletesTo .di s t
      ∧ t = { s with
          ctl := { s.ctl with ie := false, tie := t.ctl.tie }
          draws := s.draws + s.ctl.tieV.toNat }
      ∧ (s.ctl.tieV = false → t.ctl.tie = s.ctl.tie)

/-- R265: the eight bits RIM leaves in A; TIEV is cleared and nothing else changes. A pin that nothing drives is drawn: one free
value, of which nothing is said (D14; log 17). -/
def Obligations.ReadInterruptMask : Prop :=
  ∀ s : State, ∃ t, CompletesTo .rim s t
    ∧ t = { s with
        regs := { s.regs with a := t.regs.a }
        ctl := { s.ctl with tieV := false }
        draws := s.draws + s.pins.sid.isNone.toNat + s.pins.rst65.isNone.toNat + s.pins.rst55.isNone.toNat }
    ∧ (∀ v, s.pins.sid = some v → t.regs.a.getLsbD 7 = v)
    ∧ t.regs.a.getLsbD 6 = s.ctl.r75
    ∧ (∀ v, s.pins.rst65 = some v → t.regs.a.getLsbD 5 = v)
    ∧ (∀ v, s.pins.rst55 = some v → t.regs.a.getLsbD 4 = v)
    ∧ t.regs.a.getLsbD 3 = (if s.ctl.tieV = true then s.ctl.tie else s.ctl.ie)
    ∧ t.regs.a.getLsbD 2 = s.ctl.m75 ∧ t.regs.a.getLsbD 1 = s.ctl.m65 ∧ t.regs.a.getLsbD 0 = s.ctl.m55

/-- R266, R267: the three independent parts of SIM; A and everything else stay. The outside sees SOD when it changes, and only
then. -/
def Obligations.SetInterruptMask : Prop :=
  ∀ s : State, ∃ t, CompletesTo .sim s t
    ∧ t = { s with
        ctl := { s.ctl with
          m75 := t.ctl.m75, m65 := t.ctl.m65, m55 := t.ctl.m55, r75 := t.ctl.r75, sod := t.ctl.sod }
        bus := if t.ctl.sod = s.ctl.sod then s.bus else .sod t.ctl.sod :: s.bus }
    ∧ (if s.regs.a.getLsbD 3 = true
        then t.ctl.m75 = s.regs.a.getLsbD 2 ∧ t.ctl.m65 = s.regs.a.getLsbD 1 ∧ t.ctl.m55 = s.regs.a.getLsbD 0
        else t.ctl.m75 = s.ctl.m75 ∧ t.ctl.m65 = s.ctl.m65 ∧ t.ctl.m55 = s.ctl.m55)
    ∧ (if s.regs.a.getLsbD 4 = true then t.ctl.r75 = false else t.ctl.r75 = s.ctl.r75)
    ∧ (if s.regs.a.getLsbD 6 = true then t.ctl.sod = s.regs.a.getLsbD 7 else t.ctl.sod = s.ctl.sod)

/-! ## All instructions -/

/-- R300: no instruction can trap, fault or abort; in every state every instruction completes. -/
def Obligations.EveryInstructionCompletes : Prop := ∀ (i : Instr) (s : State), ∃ t, exec i s = .next t

/-- R36: an instruction leaves every register, flag and SP alone that R36 does not name for it. This holds whatever the
outside does meanwhile. -/
def Obligations.InstructionFrame : Prop :=
  ∀ (i : Instr) (s t : State), exec i s = .next t →
    (∀ r, r ∉ regsWritten i → t.regs.get r = s.regs.get r)
    ∧ (writesSzap i = false →
        t.flags.s = s.flags.s ∧ t.flags.z = s.flags.z ∧ t.flags.ac = s.flags.ac ∧ t.flags.p = s.flags.p)
    ∧ (writesCy i = false → t.flags.cy = s.flags.cy)
    ∧ (writesSp i = false → t.sp = s.sp)

/-- R36, R22, R23, R25 to R29: IE is written by EI and DI only, the masks and SOD by SIM only, EIINH by EI, HALTED by HLT, TIEV
by RIM, TIE by EI and DI; only SIM can clear R75 and no instruction clears TRAPFF. Of a whole step, whatever the outside does
in it: one that ends with TRAPFF newly 0 accepted TRAP or ended in reset; one that changes a mask or SOD ran SIM or ended in
reset. -/
def Obligations.ControlFrame : Prop :=
  (∀ (i : Instr) (s t : State), exec i s = .next t →
    (i ≠ .ei → i ≠ .di → t.ctl.ie = s.ctl.ie ∧ t.ctl.tie = s.ctl.tie)
    ∧ (i ≠ .sim → t.ctl.m55 = s.ctl.m55 ∧ t.ctl.m65 = s.ctl.m65 ∧ t.ctl.m75 = s.ctl.m75 ∧ t.ctl.sod = s.ctl.sod
        ∧ (s.ctl.r75 = true → t.ctl.r75 = true))
    ∧ (i ≠ .ei → t.ctl.eiInh = s.ctl.eiInh)
    ∧ (i ≠ .hlt → t.ctl.halted = s.ctl.halted)
    ∧ (i ≠ .rim → t.ctl.tieV = s.ctl.tieV)
    ∧ (s.ctl.trapFF = true → t.ctl.trapFF = true))
  ∧ ∀ s t : State, step s = .next t →
    let u := s.boundarySlot
    let v := { u with ctl := { u.ctl with eiInh := false } }
    (s.ctl.trapFF = true → t.ctl.trapFF = false →
      u.recognized = some (.restart .trap) ∨ ∃ w : State, t = w.afterReset)
    ∧ ((t.ctl.m55, t.ctl.m65, t.ctl.m75, t.ctl.sod) ≠ (s.ctl.m55, s.ctl.m65, s.ctl.m75, s.ctl.sod) →
        (u.recognized = none ∧ decodeOne v.fetch.1 = some .sim) ∨ ∃ w : State, t = w.afterReset)

/-! ## Interrupts, halt, hold, reset -/

/-- R301, R302, R310: which request a boundary recognizes, in priority order. That an RST 6.5 or RST 5.5 pin which nothing drives
requests no interrupt is the model's choice (log 17, DESIGN CHOICE). -/
def Obligations.Priority : Prop :=
  ∀ s : State, s.recognized =
    if s.ctl.trapFF = true ∧ s.pins.trap = true then some (.restart .trap)
    else if s.ctl.ie = false ∨ s.ctl.eiInh = true then none
    else if s.ctl.r75 = true ∧ s.ctl.m75 = false then some (.restart .rst75)
    else if s.pins.rst65 = some true ∧ s.ctl.m65 = false then some (.restart .rst65)
    else if s.pins.rst55 = some true ∧ s.ctl.m55 = false then some (.restart .rst55)
    else if s.pins.intr = true then some .intr else none

/-- R313 to R316, R319: a step that recognizes TRAP, RST 7.5, 6.5 or 5.5 leaves the halt state, clears IE and the source's
own request, pushes `pc` after one BUS IDLE cycle and goes to the fixed address; TRAP saves IE for the first RIM unless an
earlier saved status is still valid, which then becomes a free value. A TRAP pin that stays high is not recognized again.
In the BUS IDLE cycle IO/M, S1, S0 are 1, 1, 1 and RD, WR, INTA are inactive. -/
def Obligations.RestartEntry : Prop :=
  ∀ (s : State) (src : Restart), s.Undisturbed → s.recognized = some (.restart src) →
    ∃ t, step s = .next t
      ∧ t = { s with
          sp := s.sp - 2
          pc := match src with
            | .trap => 0x0024
            | .rst75 => 0x003C
            | .rst65 => 0x0034
            | .rst55 => 0x002C
          ctl := { s.ctl with
            halted := false
            ie := false
            eiInh := false
            trapFF := s.ctl.trapFF && decide (src ≠ .trap)
            r75 := s.ctl.r75 && decide (src ≠ .rst75)
            tieV := s.ctl.tieV || decide (src = .trap)
            tie := t.ctl.tie }
          mem := t.mem
          bus := .memWrite (s.sp - 2) (loByte s.pc) :: .memWrite (s.sp - 1) (hiByte s.pc) :: .idleAck :: s.bus
          draws := s.draws + s.ctl.tieV.toNat }
      ∧ StoresTwo s t (s.sp - 1) (hiByte s.pc) (s.sp - 2) (loByte s.pc)
      ∧ (s.ctl.tieV = false → t.ctl.tie = if src = .trap then s.ctl.ie else s.ctl.tie)
      ∧ (src = .trap → t.recognized ≠ some (.restart .trap))
      ∧ BusEvent.idleAck.lines
          = some { iom := .high, s1 := .high, s0 := .high, rd := .high, wr := .high, inta := .high }

/-- R27, R265, R314, R365: the first RIM after a TRAP reports in bit 3 the IE from before the TRAP, the second one the
current IE, which is 0. -/
def Obligations.FirstRimAfterTrap : Prop :=
  ∀ s : State, s.Undisturbed → s.ctl.tieV = false → s.recognized = some (.restart .trap) →
    ∃ t u v, step s = .next t ∧ exec .rim t = .next u ∧ exec .rim u = .next v
      ∧ u.regs.a.getLsbD 3 = s.ctl.ie ∧ v.regs.a.getLsbD 3 = false

/-- R309, R316, R318, R319: a step that recognizes INTR reads an instruction in INTA cycles and, if it is RST n, pushes the
`pc` that was not incremented and goes to 8 n. `op` is the byte on the bus in the first INTA cycle: what the responder drives, or
a free value where nothing does (`Obligations.IntrWithCallOrOther`; log 8). A saved enable status that is not valid stays. -/
def Obligations.IntrWithRestart : Prop :=
  ∀ s : State, s.Undisturbed → s.recognized = some .intr →
    let d : State := { s with draws := s.draws + s.ctl.tieV.toNat }
    let op := d.readResponder .first
    op.1 &&& 0xC7 = 0xC7 →
    ∃ t, step s = .next t
      ∧ t = { s with
          sp := s.sp - 2
          pc := joinBytes 0 (op.1 &&& 0x38)
          ctl := { s.ctl with halted := false, ie := false, eiInh := false, tie := t.ctl.tie }
          mem := t.mem
          bus := .memWrite (s.sp - 2) (loByte s.pc) :: .memWrite (s.sp - 1) (hiByte s.pc) :: .intAck op.1 :: s.bus
          draws := op.2.draws }
      ∧ StoresTwo s t (s.sp - 1) (hiByte s.pc) (s.sp - 2) (loByte s.pc)
      ∧ (s.ctl.tieV = false → t.ctl.tie = s.ctl.tie)

/-- R318, R316, R49: CALL read in three INTA cycles; any byte that is neither RST n nor CALL is refused by name (D18). Each byte
is what `INTA_RESPONDER` gives for the number of the cycle; an INTA cycle in which it drives nothing reads a free byte, one draw
(D7; log 8), and the step goes on with it. -/
def Obligations.IntrWithCallOrOther : Prop :=
  (∀ s : State, s.Undisturbed → s.recognized = some .intr →
    let d : State := { s with draws := s.draws + s.ctl.tieV.toNat }
    let op := d.readResponder .first
    let lo := op.2.readResponder .second
    let hi := lo.2.readResponder .third
    (op.1 = 0xCD →
      ∃ t, step s = .next t
        ∧ t = { s with
            sp := s.sp - 2
            pc := joinBytes hi.1 lo.1
            ctl := { s.ctl with halted := false, ie := false, eiInh := false, tie := t.ctl.tie }
            mem := t.mem
            bus := .memWrite (s.sp - 2) (loByte s.pc) :: .memWrite (s.sp - 1) (hiByte s.pc) :: .intAck hi.1
              :: .intAck lo.1 :: .intAck 0xCD :: s.bus
            draws := hi.2.draws }
        ∧ StoresTwo s t (s.sp - 1) (hiByte s.pc) (s.sp - 2) (loByte s.pc)
        ∧ (s.ctl.tieV = false → t.ctl.tie = s.ctl.tie))
    ∧ (op.1 &&& 0xC7 ≠ 0xC7 → op.1 ≠ 0xCD → step s = .refused (.intaNotRestartOrCall op.1)))
  ∧ ∀ (d : State) (k : AckCycle),
      let driven := match k with
        | .first => d.platform.responder.first
        | .second => d.platform.responder.second
        | .third => d.platform.responder.third
      (∀ v, driven = some v → d.readResponder k = (v, d))
      ∧ (driven = none → (d.readResponder k).2 = { d with draws := d.draws + 1 })

/-- R28, R254, R310, R361: after EI no maskable interrupt is recognized at the next boundary, whatever its request: the next
instruction runs, with EIINH cleared; after DI none is recognized at all. -/
def Obligations.EiDelay : Prop :=
  (∀ s t : State, exec .ei s = .next t → ¬(t.ctl.trapFF = true ∧ t.pins.trap = true) → t.Undisturbed →
    t.ctl.halted = false → t.ctl.ie = true ∧ step t = finish (State.runInstr { t with ctl := { t.ctl with eiInh := false } }))
  ∧ ∀ s t : State, exec .di s = .next t → ∀ q, t.recognized = some q → q = .restart .trap

/-- R22: IE is set to 1 only by EI: a step that ends with IE newly 1 fetched and decoded EI, and ends with EIINH 1 (R28). -/
def Obligations.OnlyEiEnables : Prop :=
  ∀ s t : State, step s = .next t → s.ctl.ie = false → t.ctl.ie = true →
    let u := s.boundarySlot
    let v := { u with ctl := { u.ctl with eiInh := false } }
    t.ctl.eiInh = true ∧ u.recognized = none ∧ decodeOne v.fetch.1 = some .ei

/-- R24: the RST 7.5 request flip-flop. A rising edge sets it, masked or not; a step that ends with it newly 0 is one that
accepted RST 7.5, ran SIM with bit 4 of A equal to 1, or ended in reset, and each of the three does clear it; recognition and
RIM read it; at reset it is 0. -/
def Obligations.Rst75Latch : Prop :=
  (∀ s : State, s.pins.rst75 = false → (s.setPin .rst75 true).ctl.r75 = true)
  ∧ (∀ s t : State, step s = .next t → s.ctl.r75 = true → t.ctl.r75 = false →
      let u := s.boundarySlot
      let v := { u with ctl := { u.ctl with eiInh := false } }
      u.recognized = some (.restart .rst75)
        ∨ (decodeOne v.fetch.1 = some .sim ∧ s.regs.a.getLsbD 4 = true)
        ∨ ∃ w : State, t = w.afterReset)
  ∧ (∀ s : State, s.Undisturbed → s.recognized = some (.restart .rst75) →
      ∃ t, step s = .next t ∧ t.ctl.r75 = false)
  ∧ (∀ s : State, s.regs.a.getLsbD 4 = true → ∃ t, exec .sim s = .next t ∧ t.ctl.r75 = false)
  ∧ (∀ s : State, s.afterReset.ctl.r75 = false)
  ∧ (∀ s : State, s.recognized = some (.restart .rst75) → s.ctl.r75 = true)
  ∧ (∀ s : State, ∃ t, exec .rim s = .next t ∧ t.regs.a.getLsbD 6 = s.ctl.r75)
  ∧ State.reset.ctl.r75 = false

/-- R29, R330, R358: a halted CPU with nothing to accept stays as it is, whatever is masked or disabled. R58, R322, R331, R335:
while HLDA is high at a boundary and nothing is recognized, a step lets only the outside act, in one slot (the model's log 6
and 13); EIINH is cleared if the CPU is halted and otherwise kept for the boundary still to come (the model's log 18, DEDUCED).
A request recognized meanwhile, halted or held or both, is accepted, and the entry is completed once the bus is regained,
unless RESET IN comes first. -/
def Obligations.HaltAndHoldWait : Prop :=
  (∀ s : State, s.Undisturbed → s.ctl.halted = true → s.recognized = none →
    step s = .next { s with ctl := { s.ctl with eiInh := false } })
  ∧ (∀ s : State,
      let u := s.boundarySlot
      u.resetting = false → u.ctl.hldaFF = true → u.recognized = none →
      OutsideOnly s u
        ∧ step s = .next (if u.ctl.halted = true then { u with ctl := { u.ctl with eiInh := false } } else u))
  ∧ (∀ (s : State) (src : Restart),
      let u := s.boundarySlot
      u.resetting = false → u.recognized = some (.restart src) →
      ∃ t, step s = .next t
        ∧ ((∃ w : State, t = w.afterReset)
          ∨ (t.pc = (match src with
                | .trap => 0x0024
                | .rst75 => 0x003C
                | .rst65 => 0x0034
                | .rst55 => 0x002C)
              ∧ t.sp = s.sp - 2 ∧ t.regs = s.regs ∧ t.flags = s.flags
              ∧ t.ctl.halted = false ∧ t.ctl.ie = false ∧ t.ctl.eiInh = false
              ∧ ∃ (before : List BusEvent) (held : List BusEvent) (between : List BusEvent) (after : List BusEvent),
                  t.bus = after ++ .memWrite (s.sp - 2) (loByte s.pc) :: between ++ .memWrite (s.sp - 1) (hiByte s.pc) :: held
                    ++ .idleAck :: before ++ s.bus)))
  ∧ ∀ s : State,
      let u := s.boundarySlot
      u.resetting = false → u.recognized = some .intr →
      step s = finish (State.acceptIntr { u with ctl := { u.ctl with eiInh := false } })

/-- R34, R350 to R353, R267: RESET IN at a boundary leaves the values R34 fixes; memory and the pins are not touched, but that
RAM which loses its contents at a reset (`MEMORY_MAP`, R353) holds free bytes; the outside sees RESET OUT, and SOD go low if it
was high. The registers, the flags, SP and TIE are free values. Of free values nothing is said. -/
def Obligations.ResetIn : Prop :=
  ∀ (s : State) (events : List EnvEvent) (rest : List (List EnvEvent)), s.env = (.resetIn :: events) :: rest →
    ∃ t, step s = .next t
      ∧ t = { s with
          regs := t.regs
          flags := t.flags
          sp := t.sp
          pc := 0x0000
          ctl := { ie := false, m55 := true, m65 := true, m75 := true, r75 := false, trapFF := false, sod := false
                   tie := t.ctl.tie, tieV := false, eiInh := false, halted := false, hldaFF := false }
          env := events :: rest
          mem := t.mem
          bus := if s.ctl.sod = true then .sod false :: .resetOut :: s.bus else .resetOut :: s.bus
          draws := t.draws
          resetting := false }
      ∧ (∀ x : Word, s.losesAt x = false → t.peek x = s.peek x)
      ∧ (s.mem.wf = true → (∀ x : Word, s.losesAt x = false) → t.mem = s.mem)

/-- R352, D20, R46: RESET IN during a memory write abandons what is in progress; only the byte at the address of the write,
and RAM that loses its contents at a reset (R353), can have changed. Said of MEMORY WRITE itself, of MOV M,r, and, through `MemoryAsLogged`, of every instruction; a RESET IN that
comes in the hold after a write interrupts none, and the byte stands where RAM keeps its contents. After RESET
IN no machine cycle runs. In whatever slot of a step RESET IN comes, the step ends in the reset state. -/
def Obligations.ResetDuringWrite : Prop :=
  (∀ (s : State) (a : Word) (v : Byte) (events : List EnvEvent) (rest : List (List EnvEvent)),
    s.resetting = false → s.ctl.hldaFF = false → s.env = (.resetIn :: events) :: rest →
    (s.memWrite a v).resetting = true ∧ (s.memWrite a v).bus = .resetOut :: .memWrite a v :: s.bus
      ∧ ∀ x : Word, x ≠ a → s.losesAt x = false → (s.memWrite a v).peek x = s.peek x)
  ∧ (∀ (s : State) (a : Word) (v : Byte) (events : List EnvEvent) (rest : List (List EnvEvent)),
    s.resetting = false → s.ctl.hldaFF = false → s.kindAt a = .ram → s.losesAt a = false →
    s.env = [.pin .hold true] :: (.resetIn :: events) :: rest →
    (s.memWrite a v).awaitBus.resetting = true ∧ (s.memWrite a v).awaitBus.peek a = v)
  ∧ (∀ t : State, t.resetting = true →
    (∀ a v, t.memWrite a v = t) ∧ (∀ p v, t.ioWrite p v = t) ∧ (∀ c, t.busIdle c = t)
      ∧ (∀ a, (t.opcodeFetch a).2 = { t with draws := t.draws + 1 } ∧ (t.memRead a).2 = { t with draws := t.draws + 1 })
      ∧ (∀ p, (t.ioRead p).2 = { t with draws := t.draws + 1 })
      ∧ (∀ k, (t.intaRead k).2 = { t with draws := t.draws + 1 })
      ∧ finish (.next t) = .next t.afterReset)
  ∧ (∀ (s : State) (src : Reg) (events : List EnvEvent) (rest : List (List EnvEvent)),
    s.env = (.resetIn :: events) :: rest → s.resetting = false →
    ∃ t, exec (.movMR src) s = .next t ∧ t.resetting = true
      ∧ (∀ x : Word, x ≠ s.hl → s.losesAt x = false → t.afterReset.peek x = s.peek x)
      ∧ finish (.next t) = .next t.afterReset ∧ t.afterReset.pc = 0x0000 ∧ t.afterReset.ctl.ie = false)
  ∧ (∀ (i : Instr) (s t : State), exec i s = .next t → MemoryAsLogged s t
      ∧ (resetsToCome t.env ≠ resetsToCome s.env → t.resetting = true))
  ∧ ∀ s t : State, step s = .next t → resetsToCome t.env ≠ resetsToCome s.env →
      t.resetting = false ∧ t.pc = 0x0000
        ∧ t.ctl = { ie := false, m55 := true, m65 := true, m75 := true, r75 := false, trapFF := false, sod := false
                    tie := t.ctl.tie, tieV := false, eiInh := false, halted := false, hldaFF := false }

/-- R34: the state the machine starts in, where the spec gives a value. -/
def Obligations.ResetState : Prop :=
  State.reset.pc = 0x0000 ∧ State.reset.ctl.ie = false ∧ State.reset.ctl.hldaFF = false
  ∧ State.reset.ctl.r75 = false ∧ State.reset.ctl.trapFF = false ∧ State.reset.ctl.m55 = true
  ∧ State.reset.ctl.m65 = true ∧ State.reset.ctl.m75 = true ∧ State.reset.ctl.sod = false
  ∧ State.reset.ctl.halted = false ∧ State.reset.ctl.eiInh = false ∧ State.reset.ctl.tieV = false

/-- R24, R25, R30, R32, R335: an input pin takes its level; a rising edge of RST 7.5 or TRAP sets its flip-flop, and no level
clears one; HLDA falls with HOLD. R331, R335: HLDA is up after every machine cycle that ends with HOLD high; at a boundary it
rises if the CPU is halted, and does not where the CPU is not, so that after RESET IN a HOLD that stays high waits for the end
of the first machine cycle. -/
def Obligations.PinEdges : Prop :=
  (∀ (s : State) (level : Bool),
    s.setPin .rst75 level = { s with
      pins := { s.pins with rst75 := level }
      ctl := { s.ctl with r75 := if s.pins.rst75 = false ∧ level = true then true else s.ctl.r75 } }
    ∧ s.setPin .trap level = { s with
      pins := { s.pins with trap := level }
      ctl := { s.ctl with trapFF := if s.pins.trap = false ∧ level = true then true else s.ctl.trapFF } }
    ∧ s.setPin .rst65 level = { s with pins := { s.pins with rst65 := some level } }
    ∧ s.setPin .rst55 level = { s with pins := { s.pins with rst55 := some level } }
    ∧ s.setPin .intr level = { s with pins := { s.pins with intr := level } }
    ∧ s.setPin .sid level = { s with pins := { s.pins with sid := some level } }
    ∧ s.setPin .hold level = { s with
      pins := { s.pins with hold := level }, ctl := { s.ctl with hldaFF := s.ctl.hldaFF && level } }
    ∧ s.grantHold = { s with ctl := { s.ctl with hldaFF := s.ctl.hldaFF || s.pins.hold } })
  ∧ (∀ (s : State) (a : Word) (v w : Byte) (k : AckCycle) (c : BusEvent),
      ∀ t ∈ [(s.opcodeFetch a).2, (s.memRead a).2, s.memWrite a v, (s.ioRead v).2, s.ioWrite v w, (s.intaRead k).2,
          s.busIdle c],
        t.resetting = false → t.pins.hold = true → t.ctl.hldaFF = true)
  ∧ ∀ s : State,
      (s.boundarySlot.ctl.halted = true → s.boundarySlot.pins.hold = true → s.boundarySlot.ctl.hldaFF = true)
      ∧ (s.boundarySlot.ctl.halted = false → s.ctl.hldaFF = false → s.boundarySlot.ctl.hldaFF = false)

/-- R45, R46, R59: RAM and ROM answer a read with the byte they hold; a device with what it drives; an absent
address and a device that drives nothing give a free value, one draw. A read by the other master, which has the bus, finds the
same byte. RAM holds a byte sent to it, no other address changes,
and the CPU goes on in every case; ROM and an absent address lose it. That a write to a device changes no byte of State, the
bus log alone showing it, is the model's choice (log 9). -/
def Obligations.MemoryKinds : Prop :=
  ∀ (s : State) (a : Word),
    (s.kindAt a = .ram ∨ s.kindAt a = .rom → s.busByte a = s.peek a
      ∧ s.afterRead a = { s with bus := .memRead a (s.peek a) :: s.bus })
    ∧ (s.kindAt a = .device →
      let found := takeAnswer s.platform.devices a.toNat
      let p : Platform := { s.platform with devices := found.2 }
      (∀ v, found.1 = some v → s.busByte a = v ∧ s.afterRead a = { s with platform := p, bus := .memRead a v :: s.bus })
      ∧ (found.1 = none → s.afterRead a = { s with
          platform := p, draws := s.draws + 1, bus := .memRead a (s.busByte a) :: s.bus }))
    ∧ (s.kindAt a = .absent → s.afterRead a = { s with
        draws := s.draws + 1, bus := .memRead a (s.busByte a) :: s.bus })
    ∧ (s.ctl.hldaFF = true →
      s.masterAccess (.memRead a) = { s.afterRead a with bus := .master (.memRead a (s.busByte a)) :: s.bus })
    ∧ (s.kindAt a = .ram → ∀ v, (s.poke a v).peek a = v ∧ ∀ x : Word, x ≠ a → (s.poke a v).peek x = s.peek x)
    ∧ (s.kindAt a ≠ .ram → ∀ v, s.poke a v = s)
    ∧ (s.Undisturbed → ∀ v,
        s.memWrite a v = { s with mem := (s.memWrite a v).mem, bus := .memWrite a v :: s.bus }
          ∧ StoresByte s (s.memWrite a v) a v)

/-! ## The machine -/

/-- R46, R59, R352: in any step, whatever the outside does, each byte of memory ends as the logged events say: RAM holds the
latest byte written to it, by the CPU or by the other master, or its old byte where none was written; what is not RAM keeps
its byte. And each logged read of RAM or ROM, by the CPU or by the other master, found what the events before it say. Only
a write of the CPU that RESET IN follows directly, and may have interrupted, leaves its one byte open, and a reset leaves
the bytes of RAM open that loses its contents then (`MEMORY_MAP`, R353). -/
def Obligations.MemoryOnlyThroughBus : Prop := ∀ s t : State, step s = .next t → MemoryAsLogged s t

/-- The invariant of the machine is kept by every step. -/
def Obligations.StepKeepsInv : Prop := ∀ s t : State, s.Inv → step s = .next t → t.Inv

/-- The state after reset meets the invariant. -/
def Obligations.ResetMeetsInv : Prop := State.reset.Inv

/-- R40, and the canonical form of the list of cells: two memories in canonical form that hold the same byte at each of the
65536 addresses are equal as data. -/
def Obligations.MemoryIsItsContents : Prop :=
  ∀ s t : State, s.mem.wf = true → t.mem.wf = true → (∀ a : Word, s.peek a = t.peek a) → s.mem = t.mem

/-- R70 to R76, R82: decoding the bytes of a well-formed instruction gives it back, with what follows untouched. -/
def Obligations.DecodeEncode : Prop :=
  ∀ (i : Instr) (rest : List Byte), i.wellFormed = true → decode (encode i ++ rest) = .ok i rest

/-- R77 to R79, R81: whatever decodes is a well-formed instruction, and the bytes it was read from are its encoding: no two
byte sequences share a meaning. -/
def Obligations.EncodeDecode : Prop :=
  ∀ (bytes : List Byte) (i : Instr) (rest : List Byte), decode bytes = .ok i rest →
    i.wellFormed = true ∧ bytes = encode i ++ rest

/-- R75, R80: the length of an instruction is the one its first byte gives; ten first bytes have none, are rejected by name,
and a step that fetches one is refused by name. -/
def Obligations.UndefinedAndLength : Prop :=
  (∀ i : Instr, i.wellFormed = true → instrLength (opcodeOf i) = some (encode i).length)
  ∧ ∀ op ∈ [(0x08 : Byte), 0x10, 0x18, 0x28, 0x38, 0xCB, 0xD9, 0xDD, 0xED, 0xFD],
      (∀ rest, decode (op :: rest) = .undefinedOpcode op)
      ∧ ∀ s : State, s.Undisturbed → s.recognized = none → s.ctl.halted = false → s.HoldsBytes s.pc [op] →
        step s = .refused (.undefinedOpcode op)

/-- A few words written out from R76. -/
def Obligations.DecodeWords : Prop :=
  decode [0b01111000] = .ok (.movRR .a .b) [] ∧ decode [0b00111110, 0x42] = .ok (.mviR .a 0x42) []
  ∧ decode [0b00100001, 0x50, 0x20] = .ok (.lxiH 0x2050) [] ∧ decode [0b11000011, 0x00, 0x3E] = .ok (.jmp 0x3E00) []
  ∧ decode [0b11101111] = .ok (.rst 5) [] ∧ decode [0b11011011, 0x21] = .ok (.inPort 0x21) []
  ∧ decode [0b01110110] = .ok .hlt [] ∧ decode [0b10000010] = .ok (.addR .d) []

/-- R13, R310: when the bytes fetched decode to an instruction, the step is that instruction's meaning in the state after
the fetch; `finish` turns a reset that arrived meanwhile into the reset state. -/
def Obligations.StepRunsDecoded : Prop :=
  ∀ (s : State) (i : Instr),
    let u := s.boundarySlot
    let v := { u with ctl := { u.ctl with eiInh := false } }
    u.resetting = false → u.ctl.hldaFF = false → u.recognized = none → u.ctl.halted = false →
    v.fetch.2.resetting = false → decodeOne v.fetch.1 = some i →
    step s = finish (exec i v.fetch.2)

/-- R13, R72, R82, R141, R156, R310: a well-formed instruction whose bytes stand in RAM or ROM at `pc` is fetched whole, in
one OPCODE FETCH and the MEMORY READs of its operand bytes, and run with `pc` past it. -/
def Obligations.StepRunsEncoded : Prop :=
  ∀ (s : State) (i : Instr), i.wellFormed = true → s.Undisturbed → s.recognized = none → s.ctl.halted = false →
    s.HoldsBytes s.pc (encode i) → step s = finish (exec i (s.afterFetch i))
end

