-- ==== Sys2Proof/Laws/Memory.lean ====
section
/-! SUPPORT. The laws of memory: a write is read back, leaves every other address alone and keeps the canonical form, and
equal contents are equal lists. -/

namespace Sys2Proof.Machine

theorem Memory.get_erase_same (m : Memory) (k : Nat) : (m.erase k).get k = Memory.unlisted := by
  induction m with
  | nil => rfl
  | cons c m ih =>
    obtain ⟨a, v⟩ := c
    by_cases h : k = a <;> simp [Memory.erase, Memory.get, h]
    · subst h; exact ih
    · exact ih

theorem Memory.get_erase_other (m : Memory) (k j : Nat) (hj : j ≠ k) : (m.erase k).get j = m.get j := by
  induction m with
  | nil => rfl
  | cons c m ih =>
    obtain ⟨a, v⟩ := c
    by_cases h : k = a
    · subst h; simp [Memory.erase, Memory.get, hj, ih]
    · by_cases h2 : j = a <;> simp [Memory.erase, Memory.get, h, h2]
      exact ih

theorem Memory.get_insert_other (m : Memory) (k j : Nat) (v : Byte) (hj : j ≠ k) : (m.insert k v).get j = m.get j := by
  induction m with
  | nil => simp [Memory.insert, Memory.get, hj]
  | cons c m ih =>
    obtain ⟨a, w⟩ := c
    by_cases h : k < a
    · simp [Memory.insert, Memory.get, h, hj]
    · by_cases h2 : j = a <;> simp [Memory.insert, Memory.get, h, h2]
      exact ih

/-- Every listed address is at least `lo`, as `wfFrom` says; below it nothing is listed. -/
theorem Memory.get_below {lo : Nat} {m : Memory} (h : m.wfFrom lo = true) {k : Nat} (hk : k < lo) :
    m.get k = Memory.unlisted := by
  induction m generalizing lo with
  | nil => rfl
  | cons c m ih =>
    obtain ⟨a, v⟩ := c
    simp only [Memory.wfFrom, Bool.and_eq_true, decide_eq_true_eq] at h
    have : k ≠ a := by omega
    simp only [Memory.get, this, if_false]
    exact ih h.2 (by omega)

/-- Inserting in a memory that does not list the address. -/
theorem Memory.get_insert_same (m : Memory) (k : Nat) (v : Byte) : ((m.erase k).insert k v).get k = v := by
  induction m with
  | nil => simp [Memory.erase, Memory.insert, Memory.get]
  | cons c m ih =>
    obtain ⟨a, w⟩ := c
    by_cases h : k = a
    · subst h; simpa [Memory.erase] using ih
    · by_cases h2 : k < a <;> simp [Memory.erase, Memory.insert, Memory.get, h, h2]
      exact ih

/-- A write is read back. -/
theorem Memory.get_set_same (m : Memory) (k : Nat) (v : Byte) : (m.set k v).get k = v := by
  unfold Memory.set
  split
  · next h => rw [Memory.get_erase_same, h]
  · exact Memory.get_insert_same m k v

/-- A write leaves every other address alone. -/
theorem Memory.get_set_other (m : Memory) (k j : Nat) (v : Byte) (hj : j ≠ k) : (m.set k v).get j = m.get j := by
  unfold Memory.set
  split
  · exact Memory.get_erase_other m k j hj
  · rw [Memory.get_insert_other _ _ _ _ hj, Memory.get_erase_other m k j hj]

theorem Memory.wfFrom_mono {lo lo' : Nat} {m : Memory} (h : m.wfFrom lo = true) (hl : lo' ≤ lo) :
    m.wfFrom lo' = true := by
  cases m with
  | nil => rfl
  | cons c m =>
    obtain ⟨a, v⟩ := c
    simp only [Memory.wfFrom, Bool.and_eq_true, decide_eq_true_eq] at h ⊢
    exact ⟨⟨⟨by omega, h.1.1.2⟩, h.1.2⟩, h.2⟩

theorem Memory.wfFrom_erase {lo : Nat} {m : Memory} (h : m.wfFrom lo = true) (k : Nat) :
    (m.erase k).wfFrom lo = true := by
  induction m generalizing lo with
  | nil => rfl
  | cons c m ih =>
    obtain ⟨a, v⟩ := c
    simp only [Memory.wfFrom, Bool.and_eq_true, decide_eq_true_eq] at h
    by_cases hk : k = a
    · simp only [Memory.erase, hk, if_true]
      exact Memory.wfFrom_mono (hk ▸ ih h.2) (by omega)
    · simp only [Memory.erase, hk, if_false, Memory.wfFrom, Bool.and_eq_true, decide_eq_true_eq]
      exact ⟨h.1, ih h.2⟩

/-- Inserting above `lo` where the address is not listed. -/
theorem Memory.wfFrom_insert {lo : Nat} {m : Memory} (h : m.wfFrom lo = true) {k : Nat} {v : Byte} (hlo : lo ≤ k)
    (hk : k < 65536) (hv : v ≠ Memory.unlisted) : ((m.erase k).insert k v).wfFrom lo = true := by
  induction m generalizing lo with
  | nil => simp [Memory.erase, Memory.insert, Memory.wfFrom, hlo, hk, hv]
  | cons c m ih =>
    obtain ⟨a, w⟩ := c
    simp only [Memory.wfFrom, Bool.and_eq_true, decide_eq_true_eq] at h
    by_cases hka : k = a
    · simp only [Memory.erase, hka, if_true]
      exact hka ▸ ih (Memory.wfFrom_mono h.2 (by omega)) (by omega)
    · simp only [Memory.erase, hka, if_false]
      by_cases hlt : k < a
      · simp only [Memory.insert, hlt, if_true, Memory.wfFrom, Bool.and_eq_true, decide_eq_true_eq]
        exact ⟨⟨⟨hlo, hk⟩, hv⟩, ⟨⟨by omega, h.1.1.2⟩, h.1.2⟩, Memory.wfFrom_erase h.2 k⟩
      · simp only [Memory.insert, hlt, if_false, Memory.wfFrom, Bool.and_eq_true, decide_eq_true_eq]
        exact ⟨h.1, ih h.2 (by omega)⟩

/-- A write keeps the canonical form. -/
theorem Memory.wf_set {m : Memory} (h : m.wf = true) {k : Nat} (hk : k < 65536) (v : Byte) : (m.set k v).wf = true := by
  unfold Memory.set
  split
  · exact Memory.wfFrom_erase h k
  · next hv => exact Memory.wfFrom_insert h (Nat.zero_le k) hk hv

/-- In the canonical form, memories that read alike everywhere are the same list. -/
theorem Memory.eq_of_get {lo : Nat} {m n : Memory} (hm : m.wfFrom lo = true) (hn : n.wfFrom lo = true)
    (h : ∀ k, m.get k = n.get k) : m = n := by
  induction m generalizing lo n with
  | nil =>
    cases n with
    | nil => rfl
    | cons c n =>
      obtain ⟨a, v⟩ := c
      simp only [Memory.wfFrom, Bool.and_eq_true, decide_eq_true_eq] at hn
      have := h a
      simp only [Memory.get, if_true] at this
      exact absurd this.symm hn.1.2
  | cons c m ih =>
    obtain ⟨a, v⟩ := c
    have hm' := hm
    simp only [Memory.wfFrom, Bool.and_eq_true, decide_eq_true_eq] at hm
    cases n with
    | nil =>
      have := h a
      simp only [Memory.get, if_true] at this
      exact absurd this hm.1.2
    | cons d n =>
      obtain ⟨b, w⟩ := d
      have hn' := hn
      simp only [Memory.wfFrom, Bool.and_eq_true, decide_eq_true_eq] at hn
      have hab : a = b := by
        rcases Nat.lt_trichotomy a b with hlt | heq | hgt
        · have := h a
          have hne : a ≠ b := by omega
          simp only [Memory.get, if_true, hne, if_false] at this
          rw [Memory.get_below hn.2 (by omega)] at this
          exact absurd this hm.1.2
        · exact heq
        · have := h b
          have hne : b ≠ a := by omega
          simp only [Memory.get, if_true, hne, if_false] at this
          rw [Memory.get_below hm.2 (by omega)] at this
          exact absurd this.symm hn.1.2
      subst hab
      have hv : v = w := by simpa [Memory.get] using h a
      subst hv
      rw [ih hm.2 hn.2]
      intro k
      by_cases hk : k = a
      · subst hk
        rw [Memory.get_below hm.2 (by omega), Memory.get_below hn.2 (by omega)]
      · simpa [Memory.get, hk] using h k

/-- The memory right after reset has the canonical form. -/
theorem State.reset_mem_wf : State.reset.mem.wf = true := rfl

end Sys2Proof.Machine
end

