-- ==== Sys2Proof/Laws/State.lean ====
section
/-! SUPPORT. One lemma for each field and each update of State, so that no proof unfolds a record update. -/

namespace Sys2Proof.Machine

@[simp] theorem State.setReg_regs (s : State) (r : Reg) (v : Byte) : (s.setReg r v).regs = s.regs.set r v := rfl
@[simp] theorem State.setReg_flags (s : State) (r : Reg) (v : Byte) : (s.setReg r v).flags = s.flags := rfl
@[simp] theorem State.setReg_sp (s : State) (r : Reg) (v : Byte) : (s.setReg r v).sp = s.sp := rfl
@[simp] theorem State.setReg_pc (s : State) (r : Reg) (v : Byte) : (s.setReg r v).pc = s.pc := rfl
@[simp] theorem State.setReg_ctl (s : State) (r : Reg) (v : Byte) : (s.setReg r v).ctl = s.ctl := rfl
@[simp] theorem State.setReg_mem (s : State) (r : Reg) (v : Byte) : (s.setReg r v).mem = s.mem := rfl
@[simp] theorem State.setReg_memMap (s : State) (r : Reg) (v : Byte) : (s.setReg r v).memMap = s.memMap := rfl
@[simp] theorem State.setReg_pins (s : State) (r : Reg) (v : Byte) : (s.setReg r v).pins = s.pins := rfl
@[simp] theorem State.setReg_env (s : State) (r : Reg) (v : Byte) : (s.setReg r v).env = s.env := rfl
@[simp] theorem State.setReg_platform (s : State) (r : Reg) (v : Byte) : (s.setReg r v).platform = s.platform := rfl
@[simp] theorem State.setReg_bus (s : State) (r : Reg) (v : Byte) : (s.setReg r v).bus = s.bus := rfl
@[simp] theorem State.setReg_draws (s : State) (r : Reg) (v : Byte) : (s.setReg r v).draws = s.draws := rfl
@[simp] theorem State.setReg_resetting (s : State) (r : Reg) (v : Byte) : (s.setReg r v).resetting = s.resetting := rfl

@[simp] theorem State.setA_regs (s : State) (v : Byte) : (s.setA v).regs = { s.regs with a := v } := rfl
@[simp] theorem State.setA_flags (s : State) (v : Byte) : (s.setA v).flags = s.flags := rfl
@[simp] theorem State.setA_sp (s : State) (v : Byte) : (s.setA v).sp = s.sp := rfl
@[simp] theorem State.setA_pc (s : State) (v : Byte) : (s.setA v).pc = s.pc := rfl
@[simp] theorem State.setA_ctl (s : State) (v : Byte) : (s.setA v).ctl = s.ctl := rfl
@[simp] theorem State.setA_mem (s : State) (v : Byte) : (s.setA v).mem = s.mem := rfl
@[simp] theorem State.setA_memMap (s : State) (v : Byte) : (s.setA v).memMap = s.memMap := rfl
@[simp] theorem State.setA_pins (s : State) (v : Byte) : (s.setA v).pins = s.pins := rfl
@[simp] theorem State.setA_env (s : State) (v : Byte) : (s.setA v).env = s.env := rfl
@[simp] theorem State.setA_platform (s : State) (v : Byte) : (s.setA v).platform = s.platform := rfl
@[simp] theorem State.setA_bus (s : State) (v : Byte) : (s.setA v).bus = s.bus := rfl
@[simp] theorem State.setA_draws (s : State) (v : Byte) : (s.setA v).draws = s.draws := rfl
@[simp] theorem State.setA_resetting (s : State) (v : Byte) : (s.setA v).resetting = s.resetting := rfl

@[simp] theorem State.setSum_regs (s : State) (o : Sum) : (s.setSum o).regs = { s.regs with a := o.r } := rfl
@[simp] theorem State.setSum_flags (s : State) (o : Sum) : (s.setSum o).flags = s.flags.ofSum o := rfl
@[simp] theorem State.setSum_sp (s : State) (o : Sum) : (s.setSum o).sp = s.sp := rfl
@[simp] theorem State.setSum_pc (s : State) (o : Sum) : (s.setSum o).pc = s.pc := rfl
@[simp] theorem State.setSum_ctl (s : State) (o : Sum) : (s.setSum o).ctl = s.ctl := rfl
@[simp] theorem State.setSum_mem (s : State) (o : Sum) : (s.setSum o).mem = s.mem := rfl
@[simp] theorem State.setSum_memMap (s : State) (o : Sum) : (s.setSum o).memMap = s.memMap := rfl
@[simp] theorem State.setSum_pins (s : State) (o : Sum) : (s.setSum o).pins = s.pins := rfl
@[simp] theorem State.setSum_env (s : State) (o : Sum) : (s.setSum o).env = s.env := rfl
@[simp] theorem State.setSum_platform (s : State) (o : Sum) : (s.setSum o).platform = s.platform := rfl
@[simp] theorem State.setSum_bus (s : State) (o : Sum) : (s.setSum o).bus = s.bus := rfl
@[simp] theorem State.setSum_draws (s : State) (o : Sum) : (s.setSum o).draws = s.draws := rfl
@[simp] theorem State.setSum_resetting (s : State) (o : Sum) : (s.setSum o).resetting = s.resetting := rfl

@[simp] theorem State.addToA_regs (s : State) (b : Byte) (c : Bool) : (s.addToA b c).regs = { s.regs with a := (add8 s.regs.a b c).r } := rfl
@[simp] theorem State.addToA_flags (s : State) (b : Byte) (c : Bool) : (s.addToA b c).flags = s.flags.ofSum (add8 s.regs.a b c) := rfl
@[simp] theorem State.addToA_sp (s : State) (b : Byte) (c : Bool) : (s.addToA b c).sp = s.sp := rfl
@[simp] theorem State.addToA_pc (s : State) (b : Byte) (c : Bool) : (s.addToA b c).pc = s.pc := rfl
@[simp] theorem State.addToA_ctl (s : State) (b : Byte) (c : Bool) : (s.addToA b c).ctl = s.ctl := rfl
@[simp] theorem State.addToA_mem (s : State) (b : Byte) (c : Bool) : (s.addToA b c).mem = s.mem := rfl
@[simp] theorem State.addToA_memMap (s : State) (b : Byte) (c : Bool) : (s.addToA b c).memMap = s.memMap := rfl
@[simp] theorem State.addToA_pins (s : State) (b : Byte) (c : Bool) : (s.addToA b c).pins = s.pins := rfl
@[simp] theorem State.addToA_env (s : State) (b : Byte) (c : Bool) : (s.addToA b c).env = s.env := rfl
@[simp] theorem State.addToA_platform (s : State) (b : Byte) (c : Bool) : (s.addToA b c).platform = s.platform := rfl
@[simp] theorem State.addToA_bus (s : State) (b : Byte) (c : Bool) : (s.addToA b c).bus = s.bus := rfl
@[simp] theorem State.addToA_draws (s : State) (b : Byte) (c : Bool) : (s.addToA b c).draws = s.draws := rfl
@[simp] theorem State.addToA_resetting (s : State) (b : Byte) (c : Bool) : (s.addToA b c).resetting = s.resetting := rfl

@[simp] theorem State.subFromA_regs (s : State) (b : Byte) (c : Bool) : (s.subFromA b c).regs = { s.regs with a := (sub8 s.regs.a b c).r } := rfl
@[simp] theorem State.subFromA_flags (s : State) (b : Byte) (c : Bool) : (s.subFromA b c).flags = s.flags.ofSum (sub8 s.regs.a b c) := rfl
@[simp] theorem State.subFromA_sp (s : State) (b : Byte) (c : Bool) : (s.subFromA b c).sp = s.sp := rfl
@[simp] theorem State.subFromA_pc (s : State) (b : Byte) (c : Bool) : (s.subFromA b c).pc = s.pc := rfl
@[simp] theorem State.subFromA_ctl (s : State) (b : Byte) (c : Bool) : (s.subFromA b c).ctl = s.ctl := rfl
@[simp] theorem State.subFromA_mem (s : State) (b : Byte) (c : Bool) : (s.subFromA b c).mem = s.mem := rfl
@[simp] theorem State.subFromA_memMap (s : State) (b : Byte) (c : Bool) : (s.subFromA b c).memMap = s.memMap := rfl
@[simp] theorem State.subFromA_pins (s : State) (b : Byte) (c : Bool) : (s.subFromA b c).pins = s.pins := rfl
@[simp] theorem State.subFromA_env (s : State) (b : Byte) (c : Bool) : (s.subFromA b c).env = s.env := rfl
@[simp] theorem State.subFromA_platform (s : State) (b : Byte) (c : Bool) : (s.subFromA b c).platform = s.platform := rfl
@[simp] theorem State.subFromA_bus (s : State) (b : Byte) (c : Bool) : (s.subFromA b c).bus = s.bus := rfl
@[simp] theorem State.subFromA_draws (s : State) (b : Byte) (c : Bool) : (s.subFromA b c).draws = s.draws := rfl
@[simp] theorem State.subFromA_resetting (s : State) (b : Byte) (c : Bool) : (s.subFromA b c).resetting = s.resetting := rfl

@[simp] theorem State.compareA_regs (s : State) (b : Byte) : (s.compareA b).regs = s.regs := rfl
@[simp] theorem State.compareA_flags (s : State) (b : Byte) : (s.compareA b).flags = s.flags.ofSum (sub8 s.regs.a b false) := rfl
@[simp] theorem State.compareA_sp (s : State) (b : Byte) : (s.compareA b).sp = s.sp := rfl
@[simp] theorem State.compareA_pc (s : State) (b : Byte) : (s.compareA b).pc = s.pc := rfl
@[simp] theorem State.compareA_ctl (s : State) (b : Byte) : (s.compareA b).ctl = s.ctl := rfl
@[simp] theorem State.compareA_mem (s : State) (b : Byte) : (s.compareA b).mem = s.mem := rfl
@[simp] theorem State.compareA_memMap (s : State) (b : Byte) : (s.compareA b).memMap = s.memMap := rfl
@[simp] theorem State.compareA_pins (s : State) (b : Byte) : (s.compareA b).pins = s.pins := rfl
@[simp] theorem State.compareA_env (s : State) (b : Byte) : (s.compareA b).env = s.env := rfl
@[simp] theorem State.compareA_platform (s : State) (b : Byte) : (s.compareA b).platform = s.platform := rfl
@[simp] theorem State.compareA_bus (s : State) (b : Byte) : (s.compareA b).bus = s.bus := rfl
@[simp] theorem State.compareA_draws (s : State) (b : Byte) : (s.compareA b).draws = s.draws := rfl
@[simp] theorem State.compareA_resetting (s : State) (b : Byte) : (s.compareA b).resetting = s.resetting := rfl

@[simp] theorem State.logicA_regs (s : State) (v : Byte) (c : Bool) : (s.logicA v c).regs = { s.regs with a := v } := rfl
@[simp] theorem State.logicA_flags (s : State) (v : Byte) (c : Bool) : (s.logicA v c).flags = s.flags.ofLogic v c := rfl
@[simp] theorem State.logicA_sp (s : State) (v : Byte) (c : Bool) : (s.logicA v c).sp = s.sp := rfl
@[simp] theorem State.logicA_pc (s : State) (v : Byte) (c : Bool) : (s.logicA v c).pc = s.pc := rfl
@[simp] theorem State.logicA_ctl (s : State) (v : Byte) (c : Bool) : (s.logicA v c).ctl = s.ctl := rfl
@[simp] theorem State.logicA_mem (s : State) (v : Byte) (c : Bool) : (s.logicA v c).mem = s.mem := rfl
@[simp] theorem State.logicA_memMap (s : State) (v : Byte) (c : Bool) : (s.logicA v c).memMap = s.memMap := rfl
@[simp] theorem State.logicA_pins (s : State) (v : Byte) (c : Bool) : (s.logicA v c).pins = s.pins := rfl
@[simp] theorem State.logicA_env (s : State) (v : Byte) (c : Bool) : (s.logicA v c).env = s.env := rfl
@[simp] theorem State.logicA_platform (s : State) (v : Byte) (c : Bool) : (s.logicA v c).platform = s.platform := rfl
@[simp] theorem State.logicA_bus (s : State) (v : Byte) (c : Bool) : (s.logicA v c).bus = s.bus := rfl
@[simp] theorem State.logicA_draws (s : State) (v : Byte) (c : Bool) : (s.logicA v c).draws = s.draws := rfl
@[simp] theorem State.logicA_resetting (s : State) (v : Byte) (c : Bool) : (s.logicA v c).resetting = s.resetting := rfl

@[simp] theorem State.rotateA_regs (s : State) (v : Byte) (c : Bool) : (s.rotateA v c).regs = { s.regs with a := v } := rfl
@[simp] theorem State.rotateA_flags (s : State) (v : Byte) (c : Bool) : (s.rotateA v c).flags = { s.flags with cy := c } := rfl
@[simp] theorem State.rotateA_sp (s : State) (v : Byte) (c : Bool) : (s.rotateA v c).sp = s.sp := rfl
@[simp] theorem State.rotateA_pc (s : State) (v : Byte) (c : Bool) : (s.rotateA v c).pc = s.pc := rfl
@[simp] theorem State.rotateA_ctl (s : State) (v : Byte) (c : Bool) : (s.rotateA v c).ctl = s.ctl := rfl
@[simp] theorem State.rotateA_mem (s : State) (v : Byte) (c : Bool) : (s.rotateA v c).mem = s.mem := rfl
@[simp] theorem State.rotateA_memMap (s : State) (v : Byte) (c : Bool) : (s.rotateA v c).memMap = s.memMap := rfl
@[simp] theorem State.rotateA_pins (s : State) (v : Byte) (c : Bool) : (s.rotateA v c).pins = s.pins := rfl
@[simp] theorem State.rotateA_env (s : State) (v : Byte) (c : Bool) : (s.rotateA v c).env = s.env := rfl
@[simp] theorem State.rotateA_platform (s : State) (v : Byte) (c : Bool) : (s.rotateA v c).platform = s.platform := rfl
@[simp] theorem State.rotateA_bus (s : State) (v : Byte) (c : Bool) : (s.rotateA v c).bus = s.bus := rfl
@[simp] theorem State.rotateA_draws (s : State) (v : Byte) (c : Bool) : (s.rotateA v c).draws = s.draws := rfl
@[simp] theorem State.rotateA_resetting (s : State) (v : Byte) (c : Bool) : (s.rotateA v c).resetting = s.resetting := rfl

@[simp] theorem State.setCountFlags_regs (s : State) (o : Sum) : (s.setCountFlags o).regs = s.regs := rfl
@[simp] theorem State.setCountFlags_flags (s : State) (o : Sum) : (s.setCountFlags o).flags = s.flags.ofSumKeepingCy o := rfl
@[simp] theorem State.setCountFlags_sp (s : State) (o : Sum) : (s.setCountFlags o).sp = s.sp := rfl
@[simp] theorem State.setCountFlags_pc (s : State) (o : Sum) : (s.setCountFlags o).pc = s.pc := rfl
@[simp] theorem State.setCountFlags_ctl (s : State) (o : Sum) : (s.setCountFlags o).ctl = s.ctl := rfl
@[simp] theorem State.setCountFlags_mem (s : State) (o : Sum) : (s.setCountFlags o).mem = s.mem := rfl
@[simp] theorem State.setCountFlags_memMap (s : State) (o : Sum) : (s.setCountFlags o).memMap = s.memMap := rfl
@[simp] theorem State.setCountFlags_pins (s : State) (o : Sum) : (s.setCountFlags o).pins = s.pins := rfl
@[simp] theorem State.setCountFlags_env (s : State) (o : Sum) : (s.setCountFlags o).env = s.env := rfl
@[simp] theorem State.setCountFlags_platform (s : State) (o : Sum) : (s.setCountFlags o).platform = s.platform := rfl
@[simp] theorem State.setCountFlags_bus (s : State) (o : Sum) : (s.setCountFlags o).bus = s.bus := rfl
@[simp] theorem State.setCountFlags_draws (s : State) (o : Sum) : (s.setCountFlags o).draws = s.draws := rfl
@[simp] theorem State.setCountFlags_resetting (s : State) (o : Sum) : (s.setCountFlags o).resetting = s.resetting := rfl

@[simp] theorem State.draw1_regs (s : State) : (s.draw1.2).regs = s.regs := rfl
@[simp] theorem State.draw1_flags (s : State) : (s.draw1.2).flags = s.flags := rfl
@[simp] theorem State.draw1_sp (s : State) : (s.draw1.2).sp = s.sp := rfl
@[simp] theorem State.draw1_pc (s : State) : (s.draw1.2).pc = s.pc := rfl
@[simp] theorem State.draw1_ctl (s : State) : (s.draw1.2).ctl = s.ctl := rfl
@[simp] theorem State.draw1_mem (s : State) : (s.draw1.2).mem = s.mem := rfl
@[simp] theorem State.draw1_memMap (s : State) : (s.draw1.2).memMap = s.memMap := rfl
@[simp] theorem State.draw1_pins (s : State) : (s.draw1.2).pins = s.pins := rfl
@[simp] theorem State.draw1_env (s : State) : (s.draw1.2).env = s.env := rfl
@[simp] theorem State.draw1_platform (s : State) : (s.draw1.2).platform = s.platform := rfl
@[simp] theorem State.draw1_bus (s : State) : (s.draw1.2).bus = s.bus := rfl
@[simp] theorem State.draw1_draws (s : State) : (s.draw1.2).draws = s.draws + 1 := rfl
@[simp] theorem State.draw1_resetting (s : State) : (s.draw1.2).resetting = s.resetting := rfl

@[simp] theorem State.draw8_regs (s : State) : (s.draw8.2).regs = s.regs := rfl
@[simp] theorem State.draw8_flags (s : State) : (s.draw8.2).flags = s.flags := rfl
@[simp] theorem State.draw8_sp (s : State) : (s.draw8.2).sp = s.sp := rfl
@[simp] theorem State.draw8_pc (s : State) : (s.draw8.2).pc = s.pc := rfl
@[simp] theorem State.draw8_ctl (s : State) : (s.draw8.2).ctl = s.ctl := rfl
@[simp] theorem State.draw8_mem (s : State) : (s.draw8.2).mem = s.mem := rfl
@[simp] theorem State.draw8_memMap (s : State) : (s.draw8.2).memMap = s.memMap := rfl
@[simp] theorem State.draw8_pins (s : State) : (s.draw8.2).pins = s.pins := rfl
@[simp] theorem State.draw8_env (s : State) : (s.draw8.2).env = s.env := rfl
@[simp] theorem State.draw8_platform (s : State) : (s.draw8.2).platform = s.platform := rfl
@[simp] theorem State.draw8_bus (s : State) : (s.draw8.2).bus = s.bus := rfl
@[simp] theorem State.draw8_draws (s : State) : (s.draw8.2).draws = s.draws + 1 := rfl
@[simp] theorem State.draw8_resetting (s : State) : (s.draw8.2).resetting = s.resetting := rfl

@[simp] theorem State.draw16_regs (s : State) : (s.draw16.2).regs = s.regs := rfl
@[simp] theorem State.draw16_flags (s : State) : (s.draw16.2).flags = s.flags := rfl
@[simp] theorem State.draw16_sp (s : State) : (s.draw16.2).sp = s.sp := rfl
@[simp] theorem State.draw16_pc (s : State) : (s.draw16.2).pc = s.pc := rfl
@[simp] theorem State.draw16_ctl (s : State) : (s.draw16.2).ctl = s.ctl := rfl
@[simp] theorem State.draw16_mem (s : State) : (s.draw16.2).mem = s.mem := rfl
@[simp] theorem State.draw16_memMap (s : State) : (s.draw16.2).memMap = s.memMap := rfl
@[simp] theorem State.draw16_pins (s : State) : (s.draw16.2).pins = s.pins := rfl
@[simp] theorem State.draw16_env (s : State) : (s.draw16.2).env = s.env := rfl
@[simp] theorem State.draw16_platform (s : State) : (s.draw16.2).platform = s.platform := rfl
@[simp] theorem State.draw16_bus (s : State) : (s.draw16.2).bus = s.bus := rfl
@[simp] theorem State.draw16_draws (s : State) : (s.draw16.2).draws = s.draws + 1 := rfl
@[simp] theorem State.draw16_resetting (s : State) : (s.draw16.2).resetting = s.resetting := rfl

@[simp] theorem State.setPair_flags (s : State) (p : Pair) (v : Word) : (s.setPair p v).flags = s.flags := by cases p <;> rfl
@[simp] theorem State.setPair_pc (s : State) (p : Pair) (v : Word) : (s.setPair p v).pc = s.pc := by cases p <;> rfl
@[simp] theorem State.setPair_ctl (s : State) (p : Pair) (v : Word) : (s.setPair p v).ctl = s.ctl := by cases p <;> rfl
@[simp] theorem State.setPair_mem (s : State) (p : Pair) (v : Word) : (s.setPair p v).mem = s.mem := by cases p <;> rfl
@[simp] theorem State.setPair_memMap (s : State) (p : Pair) (v : Word) : (s.setPair p v).memMap = s.memMap := by cases p <;> rfl
@[simp] theorem State.setPair_pins (s : State) (p : Pair) (v : Word) : (s.setPair p v).pins = s.pins := by cases p <;> rfl
@[simp] theorem State.setPair_env (s : State) (p : Pair) (v : Word) : (s.setPair p v).env = s.env := by cases p <;> rfl
@[simp] theorem State.setPair_platform (s : State) (p : Pair) (v : Word) : (s.setPair p v).platform = s.platform := by cases p <;> rfl
@[simp] theorem State.setPair_bus (s : State) (p : Pair) (v : Word) : (s.setPair p v).bus = s.bus := by cases p <;> rfl
@[simp] theorem State.setPair_draws (s : State) (p : Pair) (v : Word) : (s.setPair p v).draws = s.draws := by cases p <;> rfl
@[simp] theorem State.setPair_resetting (s : State) (p : Pair) (v : Word) : (s.setPair p v).resetting = s.resetting := by cases p <;> rfl

@[simp] theorem State.poke_regs (s : State) (a : Word) (v : Byte) : (s.poke a v).regs = s.regs := rfl
@[simp] theorem State.poke_flags (s : State) (a : Word) (v : Byte) : (s.poke a v).flags = s.flags := rfl
@[simp] theorem State.poke_sp (s : State) (a : Word) (v : Byte) : (s.poke a v).sp = s.sp := rfl
@[simp] theorem State.poke_pc (s : State) (a : Word) (v : Byte) : (s.poke a v).pc = s.pc := rfl
@[simp] theorem State.poke_ctl (s : State) (a : Word) (v : Byte) : (s.poke a v).ctl = s.ctl := rfl
@[simp] theorem State.poke_mem (s : State) (a : Word) (v : Byte) : (s.poke a v).mem = stored s.memMap s.mem a v := rfl
@[simp] theorem State.poke_memMap (s : State) (a : Word) (v : Byte) : (s.poke a v).memMap = s.memMap := rfl
@[simp] theorem State.poke_pins (s : State) (a : Word) (v : Byte) : (s.poke a v).pins = s.pins := rfl
@[simp] theorem State.poke_env (s : State) (a : Word) (v : Byte) : (s.poke a v).env = s.env := rfl
@[simp] theorem State.poke_platform (s : State) (a : Word) (v : Byte) : (s.poke a v).platform = s.platform := rfl
@[simp] theorem State.poke_bus (s : State) (a : Word) (v : Byte) : (s.poke a v).bus = s.bus := rfl
@[simp] theorem State.poke_draws (s : State) (a : Word) (v : Byte) : (s.poke a v).draws = s.draws := rfl
@[simp] theorem State.poke_resetting (s : State) (a : Word) (v : Byte) : (s.poke a v).resetting = s.resetting := rfl

@[simp] theorem State.load_regs (s : State) (a : Word) (v : Byte) : (s.load a v).regs = s.regs := rfl
@[simp] theorem State.load_flags (s : State) (a : Word) (v : Byte) : (s.load a v).flags = s.flags := rfl
@[simp] theorem State.load_sp (s : State) (a : Word) (v : Byte) : (s.load a v).sp = s.sp := rfl
@[simp] theorem State.load_pc (s : State) (a : Word) (v : Byte) : (s.load a v).pc = s.pc := rfl
@[simp] theorem State.load_ctl (s : State) (a : Word) (v : Byte) : (s.load a v).ctl = s.ctl := rfl
@[simp] theorem State.load_mem (s : State) (a : Word) (v : Byte) : (s.load a v).mem = s.mem.set a.toNat v := rfl
@[simp] theorem State.load_memMap (s : State) (a : Word) (v : Byte) : (s.load a v).memMap = s.memMap := rfl
@[simp] theorem State.load_pins (s : State) (a : Word) (v : Byte) : (s.load a v).pins = s.pins := rfl
@[simp] theorem State.load_env (s : State) (a : Word) (v : Byte) : (s.load a v).env = s.env := rfl
@[simp] theorem State.load_platform (s : State) (a : Word) (v : Byte) : (s.load a v).platform = s.platform := rfl
@[simp] theorem State.load_bus (s : State) (a : Word) (v : Byte) : (s.load a v).bus = s.bus := rfl
@[simp] theorem State.load_draws (s : State) (a : Word) (v : Byte) : (s.load a v).draws = s.draws := rfl
@[simp] theorem State.load_resetting (s : State) (a : Word) (v : Byte) : (s.load a v).resetting = s.resetting := rfl

@[simp] theorem State.disturbTie_regs (s : State) : (s.disturbTie).regs = s.regs := by unfold State.disturbTie; split <;> rfl
@[simp] theorem State.disturbTie_flags (s : State) : (s.disturbTie).flags = s.flags := by unfold State.disturbTie; split <;> rfl
@[simp] theorem State.disturbTie_sp (s : State) : (s.disturbTie).sp = s.sp := by unfold State.disturbTie; split <;> rfl
@[simp] theorem State.disturbTie_pc (s : State) : (s.disturbTie).pc = s.pc := by unfold State.disturbTie; split <;> rfl
@[simp] theorem State.disturbTie_mem (s : State) : (s.disturbTie).mem = s.mem := by unfold State.disturbTie; split <;> rfl
@[simp] theorem State.disturbTie_memMap (s : State) : (s.disturbTie).memMap = s.memMap := by unfold State.disturbTie; split <;> rfl
@[simp] theorem State.disturbTie_pins (s : State) : (s.disturbTie).pins = s.pins := by unfold State.disturbTie; split <;> rfl
@[simp] theorem State.disturbTie_env (s : State) : (s.disturbTie).env = s.env := by unfold State.disturbTie; split <;> rfl
@[simp] theorem State.disturbTie_platform (s : State) : (s.disturbTie).platform = s.platform := by unfold State.disturbTie; split <;> rfl
@[simp] theorem State.disturbTie_bus (s : State) : (s.disturbTie).bus = s.bus := by unfold State.disturbTie; split <;> rfl
@[simp] theorem State.disturbTie_resetting (s : State) : (s.disturbTie).resetting = s.resetting := by unfold State.disturbTie; split <;> rfl

@[simp] theorem State.resetMemory_regs (s : State) : s.resetMemory.regs = s.regs := rfl
@[simp] theorem State.resetMemory_flags (s : State) : s.resetMemory.flags = s.flags := rfl
@[simp] theorem State.resetMemory_sp (s : State) : s.resetMemory.sp = s.sp := rfl
@[simp] theorem State.resetMemory_pc (s : State) : s.resetMemory.pc = s.pc := rfl
@[simp] theorem State.resetMemory_ctl (s : State) : s.resetMemory.ctl = s.ctl := rfl
@[simp] theorem State.resetMemory_memMap (s : State) : s.resetMemory.memMap = s.memMap := rfl
@[simp] theorem State.resetMemory_pins (s : State) : s.resetMemory.pins = s.pins := rfl
@[simp] theorem State.resetMemory_env (s : State) : s.resetMemory.env = s.env := rfl
@[simp] theorem State.resetMemory_platform (s : State) : s.resetMemory.platform = s.platform := rfl
@[simp] theorem State.resetMemory_bus (s : State) : s.resetMemory.bus = s.bus := rfl
@[simp] theorem State.resetMemory_resetting (s : State) : s.resetMemory.resetting = s.resetting := rfl
@[simp] theorem State.resetMemory_draws (s : State) : s.resetMemory.draws = s.draws + 65536 := rfl

/-- What a read finds driven takes at most one free byte (D5, D7). -/
theorem State.dataBus_state (s : State) (v : Option Byte) :
    (s.dataBus v).2 = { s with draws := s.draws + v.isNone.toNat } := by
  cases v <;> rfl

@[simp] theorem State.dataBus_driven (s : State) (v : Byte) : s.dataBus (some v) = (v, s) := rfl
@[simp] theorem State.dataBus_regs (s : State) (v : Option Byte) : (s.dataBus v).2.regs = s.regs := by cases v <;> rfl
@[simp] theorem State.dataBus_flags (s : State) (v : Option Byte) : (s.dataBus v).2.flags = s.flags := by cases v <;> rfl
@[simp] theorem State.dataBus_sp (s : State) (v : Option Byte) : (s.dataBus v).2.sp = s.sp := by cases v <;> rfl
@[simp] theorem State.dataBus_pc (s : State) (v : Option Byte) : (s.dataBus v).2.pc = s.pc := by cases v <;> rfl
@[simp] theorem State.dataBus_ctl (s : State) (v : Option Byte) : (s.dataBus v).2.ctl = s.ctl := by cases v <;> rfl
@[simp] theorem State.dataBus_mem (s : State) (v : Option Byte) : (s.dataBus v).2.mem = s.mem := by cases v <;> rfl
@[simp] theorem State.dataBus_memMap (s : State) (v : Option Byte) : (s.dataBus v).2.memMap = s.memMap := by cases v <;> rfl
@[simp] theorem State.dataBus_pins (s : State) (v : Option Byte) : (s.dataBus v).2.pins = s.pins := by cases v <;> rfl
@[simp] theorem State.dataBus_env (s : State) (v : Option Byte) : (s.dataBus v).2.env = s.env := by cases v <;> rfl
@[simp] theorem State.dataBus_bus (s : State) (v : Option Byte) : (s.dataBus v).2.bus = s.bus := by cases v <;> rfl
@[simp] theorem State.dataBus_resetting (s : State) (v : Option Byte) : (s.dataBus v).2.resetting = s.resetting := by cases v <;> rfl
@[simp] theorem State.dataBus_platform (s : State) (v : Option Byte) : (s.dataBus v).2.platform = s.platform := by cases v <;> rfl

@[simp] theorem State.readPort_regs (s : State) (p : Byte) : (s.readPort p).2.regs = s.regs := by simp [State.readPort]
@[simp] theorem State.readPort_flags (s : State) (p : Byte) : (s.readPort p).2.flags = s.flags := by simp [State.readPort]
@[simp] theorem State.readPort_sp (s : State) (p : Byte) : (s.readPort p).2.sp = s.sp := by simp [State.readPort]
@[simp] theorem State.readPort_pc (s : State) (p : Byte) : (s.readPort p).2.pc = s.pc := by simp [State.readPort]
@[simp] theorem State.readPort_ctl (s : State) (p : Byte) : (s.readPort p).2.ctl = s.ctl := by simp [State.readPort]
@[simp] theorem State.readPort_mem (s : State) (p : Byte) : (s.readPort p).2.mem = s.mem := by simp [State.readPort]
@[simp] theorem State.readPort_memMap (s : State) (p : Byte) : (s.readPort p).2.memMap = s.memMap := by simp [State.readPort]
@[simp] theorem State.readPort_pins (s : State) (p : Byte) : (s.readPort p).2.pins = s.pins := by simp [State.readPort]
@[simp] theorem State.readPort_env (s : State) (p : Byte) : (s.readPort p).2.env = s.env := by simp [State.readPort]
@[simp] theorem State.readPort_bus (s : State) (p : Byte) : (s.readPort p).2.bus = s.bus := by simp [State.readPort]
@[simp] theorem State.readPort_resetting (s : State) (p : Byte) : (s.readPort p).2.resetting = s.resetting := by simp [State.readPort]

@[simp] theorem State.readDevice_regs (s : State) (a : Word) : (s.readDevice a).2.regs = s.regs := by simp [State.readDevice]
@[simp] theorem State.readDevice_flags (s : State) (a : Word) : (s.readDevice a).2.flags = s.flags := by simp [State.readDevice]
@[simp] theorem State.readDevice_sp (s : State) (a : Word) : (s.readDevice a).2.sp = s.sp := by simp [State.readDevice]
@[simp] theorem State.readDevice_pc (s : State) (a : Word) : (s.readDevice a).2.pc = s.pc := by simp [State.readDevice]
@[simp] theorem State.readDevice_ctl (s : State) (a : Word) : (s.readDevice a).2.ctl = s.ctl := by simp [State.readDevice]
@[simp] theorem State.readDevice_mem (s : State) (a : Word) : (s.readDevice a).2.mem = s.mem := by simp [State.readDevice]
@[simp] theorem State.readDevice_memMap (s : State) (a : Word) : (s.readDevice a).2.memMap = s.memMap := by simp [State.readDevice]
@[simp] theorem State.readDevice_pins (s : State) (a : Word) : (s.readDevice a).2.pins = s.pins := by simp [State.readDevice]
@[simp] theorem State.readDevice_env (s : State) (a : Word) : (s.readDevice a).2.env = s.env := by simp [State.readDevice]
@[simp] theorem State.readDevice_bus (s : State) (a : Word) : (s.readDevice a).2.bus = s.bus := by simp [State.readDevice]
@[simp] theorem State.readDevice_resetting (s : State) (a : Word) : (s.readDevice a).2.resetting = s.resetting := by simp [State.readDevice]

@[simp] theorem State.readResponder_regs (s : State) (k : AckCycle) : (s.readResponder k).2.regs = s.regs := by simp [State.readResponder]
@[simp] theorem State.readResponder_flags (s : State) (k : AckCycle) : (s.readResponder k).2.flags = s.flags := by simp [State.readResponder]
@[simp] theorem State.readResponder_sp (s : State) (k : AckCycle) : (s.readResponder k).2.sp = s.sp := by simp [State.readResponder]
@[simp] theorem State.readResponder_pc (s : State) (k : AckCycle) : (s.readResponder k).2.pc = s.pc := by simp [State.readResponder]
@[simp] theorem State.readResponder_ctl (s : State) (k : AckCycle) : (s.readResponder k).2.ctl = s.ctl := by simp [State.readResponder]
@[simp] theorem State.readResponder_mem (s : State) (k : AckCycle) : (s.readResponder k).2.mem = s.mem := by simp [State.readResponder]
@[simp] theorem State.readResponder_memMap (s : State) (k : AckCycle) : (s.readResponder k).2.memMap = s.memMap := by simp [State.readResponder]
@[simp] theorem State.readResponder_pins (s : State) (k : AckCycle) : (s.readResponder k).2.pins = s.pins := by simp [State.readResponder]
@[simp] theorem State.readResponder_env (s : State) (k : AckCycle) : (s.readResponder k).2.env = s.env := by simp [State.readResponder]
@[simp] theorem State.readResponder_bus (s : State) (k : AckCycle) : (s.readResponder k).2.bus = s.bus := by simp [State.readResponder]
@[simp] theorem State.readResponder_resetting (s : State) (k : AckCycle) : (s.readResponder k).2.resetting = s.resetting := by simp [State.readResponder]
@[simp] theorem State.readResponder_platform (s : State) (k : AckCycle) : (s.readResponder k).2.platform = s.platform := by simp [State.readResponder]

@[simp] theorem State.readByte_regs (s : State) (a : Word) : ((s.readByte a).2).regs = s.regs := by
  unfold State.readByte; cases s.kindAt a <;> simp
@[simp] theorem State.readByte_flags (s : State) (a : Word) : ((s.readByte a).2).flags = s.flags := by
  unfold State.readByte; cases s.kindAt a <;> simp
@[simp] theorem State.readByte_sp (s : State) (a : Word) : ((s.readByte a).2).sp = s.sp := by
  unfold State.readByte; cases s.kindAt a <;> simp
@[simp] theorem State.readByte_pc (s : State) (a : Word) : ((s.readByte a).2).pc = s.pc := by
  unfold State.readByte; cases s.kindAt a <;> simp
@[simp] theorem State.readByte_ctl (s : State) (a : Word) : ((s.readByte a).2).ctl = s.ctl := by
  unfold State.readByte; cases s.kindAt a <;> simp
@[simp] theorem State.readByte_mem (s : State) (a : Word) : ((s.readByte a).2).mem = s.mem := by
  unfold State.readByte; cases s.kindAt a <;> simp
@[simp] theorem State.readByte_memMap (s : State) (a : Word) : ((s.readByte a).2).memMap = s.memMap := by
  unfold State.readByte; cases s.kindAt a <;> simp
@[simp] theorem State.readByte_pins (s : State) (a : Word) : ((s.readByte a).2).pins = s.pins := by
  unfold State.readByte; cases s.kindAt a <;> simp
@[simp] theorem State.readByte_env (s : State) (a : Word) : ((s.readByte a).2).env = s.env := by
  unfold State.readByte; cases s.kindAt a <;> simp
@[simp] theorem State.readByte_bus (s : State) (a : Word) : ((s.readByte a).2).bus = s.bus := by
  unfold State.readByte; cases s.kindAt a <;> simp
@[simp] theorem State.readByte_resetting (s : State) (a : Word) : ((s.readByte a).2).resetting = s.resetting := by
  unfold State.readByte; cases s.kindAt a <;> simp

/-- Reading a pin's level draws at most one free bit (R265, D14). -/
theorem State.inputLevel_state (s : State) (l : Option Bool) :
    (s.inputLevel l).2 = { s with draws := s.draws + l.isNone.toNat } := by
  cases l <;> rfl

@[simp] theorem State.inputLevel_driven (s : State) (v : Bool) : s.inputLevel (some v) = (v, s) := rfl
@[simp] theorem State.inputLevel_regs (s : State) (l : Option Bool) : (s.inputLevel l).2.regs = s.regs := by cases l <;> rfl
@[simp] theorem State.inputLevel_flags (s : State) (l : Option Bool) : (s.inputLevel l).2.flags = s.flags := by cases l <;> rfl
@[simp] theorem State.inputLevel_sp (s : State) (l : Option Bool) : (s.inputLevel l).2.sp = s.sp := by cases l <;> rfl
@[simp] theorem State.inputLevel_pc (s : State) (l : Option Bool) : (s.inputLevel l).2.pc = s.pc := by cases l <;> rfl
@[simp] theorem State.inputLevel_ctl (s : State) (l : Option Bool) : (s.inputLevel l).2.ctl = s.ctl := by cases l <;> rfl
@[simp] theorem State.inputLevel_mem (s : State) (l : Option Bool) : (s.inputLevel l).2.mem = s.mem := by cases l <;> rfl
@[simp] theorem State.inputLevel_memMap (s : State) (l : Option Bool) : (s.inputLevel l).2.memMap = s.memMap := by cases l <;> rfl
@[simp] theorem State.inputLevel_pins (s : State) (l : Option Bool) : (s.inputLevel l).2.pins = s.pins := by cases l <;> rfl
@[simp] theorem State.inputLevel_env (s : State) (l : Option Bool) : (s.inputLevel l).2.env = s.env := by cases l <;> rfl
@[simp] theorem State.inputLevel_platform (s : State) (l : Option Bool) : (s.inputLevel l).2.platform = s.platform := by cases l <;> rfl
@[simp] theorem State.inputLevel_bus (s : State) (l : Option Bool) : (s.inputLevel l).2.bus = s.bus := by cases l <;> rfl
@[simp] theorem State.inputLevel_resetting (s : State) (l : Option Bool) : (s.inputLevel l).2.resetting = s.resetting := by cases l <;> rfl
@[simp] theorem State.inputLevel_draws (s : State) (l : Option Bool) : (s.inputLevel l).2.draws = s.draws + l.isNone.toNat := by
  cases l <;> rfl

@[simp] theorem Regs.get_set_same (q : Regs) (r : Reg) (v : Byte) : (q.set r v).get r = v := by cases r <;> rfl

theorem Regs.get_set_other (q : Regs) (r r' : Reg) (v : Byte) (h : r' ≠ r) : (q.set r v).get r' = q.get r' := by
  cases r <;> cases r' <;> first | rfl | exact absurd rfl h

theorem toNat_joinBytes (hi lo : Byte) : (joinBytes hi lo).toNat = hi.toNat * 256 + lo.toNat := by
  show (hi ++ lo).toNat = _
  rw [BitVec.toNat_append, ← Nat.shiftLeft_add_eq_or_of_lt lo.isLt, Nat.shiftLeft_eq]

theorem toNat_hiByte (v : Word) : (hiByte v).toNat = v.toNat / 256 := by
  have := v.isLt
  simp only [hiByte, BitVec.extractLsb'_toNat, Nat.shiftRight_eq_div_pow]
  omega

theorem toNat_loByte (v : Word) : (loByte v).toNat = v.toNat % 256 := by
  simp [loByte, BitVec.extractLsb'_toNat]

@[simp] theorem hiByte_joinBytes (hi lo : Byte) : hiByte (joinBytes hi lo) = hi := by
  apply BitVec.eq_of_toNat_eq
  rw [toNat_hiByte, toNat_joinBytes]; have := lo.isLt; omega

@[simp] theorem loByte_joinBytes (hi lo : Byte) : loByte (joinBytes hi lo) = lo := by
  apply BitVec.eq_of_toNat_eq
  rw [toNat_loByte, toNat_joinBytes]; have := lo.isLt; omega

@[simp] theorem joinBytes_hiByte_loByte (v : Word) : joinBytes (hiByte v) (loByte v) = v := by
  apply BitVec.eq_of_toNat_eq
  rw [toNat_joinBytes, toNat_hiByte, toNat_loByte]; omega
/-- A pair that was written reads back (R12). -/
@[simp] theorem State.getPair_setPair (s : State) (p : Pair) (v : Word) : (s.setPair p v).getPair p = v := by
  cases p <;> simp [State.getPair, State.setPair]

/-- RAM takes a byte sent to it (R46). -/
theorem stored_ram {map : List MemRegion} {a : Word} (h : mapKind map a.toNat = .ram) (mem : Memory) (v : Byte) :
    stored map mem a v = mem.set a.toNat v := by
  simp only [stored, h]

/-- Nothing else does. -/
theorem stored_not_ram {map : List MemRegion} {a : Word} (h : mapKind map a.toNat ≠ .ram) (mem : Memory) (v : Byte) :
    stored map mem a v = mem := by
  unfold stored
  cases hk : mapKind map a.toNat
  · exact absurd hk h
  all_goals rfl

@[simp] theorem State.poke_kindAt (s : State) (a b : Word) (v : Byte) : (s.poke a v).kindAt b = s.kindAt b := rfl

/-- A read of memory space changes nothing but the model's own account of devices and draws. -/
theorem State.readByte_state (s : State) (a : Word) :
    (s.readByte a).2 = { s with platform := (s.readByte a).2.platform, draws := (s.readByte a).2.draws } := by
  unfold State.readByte
  cases s.kindAt a
  · rfl
  · rfl
  · rw [State.readDevice, State.dataBus_state]
  · rfl

/-- A read of a port changes nothing but the devices and the account of draws. -/
theorem State.readPort_state (s : State) (p : Byte) :
    (s.readPort p).2 = { s with platform := (s.readPort p).2.platform, draws := (s.readPort p).2.draws } := by
  rw [State.readPort, State.dataBus_state]

/-- A read does not depend on the script. -/
theorem State.readByte_withEnv (s : State) (e : List (List EnvEvent)) (a : Word) :
    State.readByte { s with env := e } a = ((s.readByte a).1, { (s.readByte a).2 with env := e }) := by
  have hk : State.kindAt { s with env := e } a = s.kindAt a := rfl
  simp only [State.readByte, hk]
  cases s.kindAt a
  · rfl
  · rfl
  · simp only [State.readDevice, State.dataBus]
    split <;> rfl
  · rfl

theorem State.readPort_withEnv (s : State) (e : List (List EnvEvent)) (p : Byte) :
    State.readPort { s with env := e } p = ((s.readPort p).1, { (s.readPort p).2 with env := e }) := by
  simp only [State.readPort, State.dataBus]
  split <;> rfl

/-- RAM and ROM answer a read with the byte they hold, and no other account changes (R45). -/
theorem State.readByte_memory (s : State) (a : Word) (h : s.kindAt a = .ram ∨ s.kindAt a = .rom) :
    s.readByte a = (s.peek a, s) := by
  unfold State.readByte
  rcases h with h | h <;> rw [h]

end Sys2Proof.Machine
end

