-- ==== Sys2Proof/Laws/Outside.lean ====
section
/-! SUPPORT. What the outside and the end of a machine cycle can do (`OutsideOnly`), and that they do nothing where the
outside keeps still. -/

namespace Sys2Proof.Machine

/-- What a longer log says of an address. -/
theorem lastWritten_append (n m : List BusEvent) (a : Word) :
    lastWritten (n ++ m) a = (lastWritten n a).or (lastWritten m a) := by
  induction n with
  | nil => rfl
  | cons c n ih => rw [List.cons_append, lastWritten, lastWritten, ih, Option.or_assoc]

theorem ResetOnWrite.append_left {m : List BusEvent} {a : Word} (h : ResetOnWrite m a) (n : List BusEvent) :
    ResetOnWrite (n ++ m) a := by
  obtain ⟨x, y, v, rfl⟩ := h
  exact ⟨n ++ x, y, v, (List.append_assoc ..).symm⟩

theorem ResetOnWrite.append_right {n : List BusEvent} {a : Word} (h : ResetOnWrite n a) (m : List BusEvent) :
    ResetOnWrite (n ++ m) a := by
  obtain ⟨x, y, v, rfl⟩ := h
  exact ⟨x, y ++ m, v, by simp⟩

theorem State.kindAt_of_memMap {s t : State} (h : t.memMap = s.memMap) (a : Word) : t.kindAt a = s.kindAt a := by
  rw [State.kindAt, h, State.kindAt]

/-- What the bytes are after RAM among `n` addresses lost its contents: a free byte where it did, as before elsewhere. -/
theorem get_loseFrom (map : List MemRegion) (first base n : Nat) (mem : Memory) (a : Nat) :
    (loseFrom map first base n mem).get a
      = if base ≤ a ∧ a < base + n ∧ mapLoses map a = true then Config.drawByte (first + a) else mem.get a := by
  induction n with
  | zero =>
    rw [loseFrom, if_neg (by omega)]
  | succ n ih =>
    simp only [loseFrom]
    by_cases h : a = base + n
    · subst h
      split
      · next hl => rw [Memory.get_set_same, if_pos ⟨by omega, by omega, hl⟩]
      · next hl => rw [ih, if_neg (by omega), if_neg fun e => hl e.2.2]
    · have hs : (base ≤ a ∧ a < base + (n + 1) ∧ mapLoses map a = true)
          ↔ (base ≤ a ∧ a < base + n ∧ mapLoses map a = true) := by
        constructor <;> rintro ⟨h1, h2, h3⟩ <;> exact ⟨h1, by omega, h3⟩
      simp only [hs, ← ih]
      split
      · exact Memory.get_set_other _ _ _ _ h
      · rfl

theorem wf_loseFrom (map : List MemRegion) (first base n : Nat) (mem : Memory) (h : mem.wf = true)
    (hn : base + n ≤ 65536) : (loseFrom map first base n mem).wf = true := by
  induction n with
  | zero => exact h
  | succ n ih =>
    simp only [loseFrom]
    split
    · exact Memory.wf_set (ih (by omega)) (by omega) _
    · exact ih (by omega)

/-- The same for all regions of a list. -/
theorem get_loseRegions (map : List MemRegion) (first : Nat) (regions : List MemRegion) (mem : Memory) (a : Nat)
    (ha : a < 65536) :
    (loseRegions map first regions mem).get a
      = if (∃ r ∈ regions, r.losesAtReset = true ∧ r.holds a = true) ∧ mapLoses map a = true
        then Config.drawByte (first + a) else mem.get a := by
  induction regions with
  | nil => simp [loseRegions]
  | cons r rest ih =>
    have hr : r.holds a = true ↔ r.base ≤ a ∧ a < r.base + min r.size (65536 - r.base) := by
      simp only [MemRegion.holds, Bool.and_eq_true, decide_eq_true_eq]
      omega
    simp only [loseRegions]
    split
    · next hl =>
      rw [get_loseFrom, ih]
      by_cases hh : r.holds a = true
      · have := hr.mp hh
        by_cases hm : mapLoses map a = true
        · rw [if_pos ⟨this.1, this.2, hm⟩, if_pos ⟨⟨r, by simp, hl, hh⟩, hm⟩]
        · rw [if_neg fun e => hm e.2.2, if_neg fun e => hm e.2, if_neg fun e => hm e.2]
      · rw [if_neg fun e => hh (hr.mpr ⟨e.1, e.2.1⟩)]
        simp [hh]
    · next hl =>
      rw [ih]
      simp [hl]

theorem wf_loseRegions (map : List MemRegion) (first : Nat) (regions : List MemRegion) (mem : Memory) (h : mem.wf = true) :
    (loseRegions map first regions mem).wf = true := by
  induction regions with
  | nil => exact h
  | cons r rest ih =>
    simp only [loseRegions]
    split
    · by_cases hb : r.base ≤ 65536
      · exact wf_loseFrom _ _ _ _ _ ih (by omega)
      · rw [show min r.size (65536 - r.base) = 0 by omega]
        exact ih
    · exact ih

/-- An address whose RAM loses its contents lies in a region that says so. -/
theorem mapLoses_region {m : List MemRegion} {a : Nat} (h : mapLoses m a = true) :
    ∃ r ∈ m, r.losesAtReset = true ∧ r.holds a = true := by
  induction m with
  | nil => cases h
  | cons r rest ih =>
    rw [mapLoses] at h
    split at h
    · next hr => exact ⟨r, by simp, by simp_all, hr⟩
    · obtain ⟨r', h1, h2⟩ := ih h
      exact ⟨r', by simp [h1], h2⟩

/-- All that RESET IN does to memory (R353): a free byte where RAM loses its contents, as before elsewhere. -/
theorem State.peek_resetMemory (s : State) (a : Word) :
    s.resetMemory.peek a = if s.losesAt a = true then Config.drawByte (s.draws + a.toNat) else s.peek a := by
  show (loseRegions s.memMap s.draws s.memMap s.mem).get a.toNat = _
  rw [get_loseRegions _ _ _ _ _ a.isLt]
  by_cases h : s.losesAt a = true
  · rw [if_pos ⟨mapLoses_region h, h⟩, if_pos h]
  · rw [if_neg fun e => h e.2, if_neg h]
    rfl

theorem State.resetMemory_kept (s : State) {a : Word} (h : s.losesAt a = false) : s.resetMemory.peek a = s.peek a := by
  rw [s.peek_resetMemory, if_neg (by simp [h])]

theorem State.resetMemory_wf (s : State) (h : s.mem.wf = true) : s.resetMemory.mem.wf = true := wf_loseRegions _ _ _ _ h

/-- Only RAM loses contents. -/
theorem mapLoses_of_not_ram {m : List MemRegion} {a : Nat} (h : mapKind m a ≠ .ram) : mapLoses m a = false := by
  induction m with
  | nil => rfl
  | cons r rest ih =>
    rw [mapKind] at h
    rw [mapLoses]
    split <;> simp_all

theorem State.kept_of_not_ram {s : State} {a : Word} (h : s.kindAt a ≠ .ram) : s.losesAt a = false := mapLoses_of_not_ram h

/-- What a location holds after some events and then some more. -/
theorem HoldsAfter.trans {s t : State} (hk : t.memMap = s.memMap) {n m : List BusEvent} {a : Word} {v : Byte}
    (h : HoldsAfter s n a (t.peek a)) (h' : HoldsAfter t m a v) : HoldsAfter s (m ++ n) a v := by
  have hl : t.losesAt a = s.losesAt a := by rw [State.losesAt, hk, State.losesAt]
  have hk := State.kindAt_of_memMap hk a
  refine ⟨fun hr => ?_, fun hr => (h'.2 fun e => hr (hk.symm.trans e)).trans (h.2 hr)⟩
  rcases h.1 hr with e | e | e
  · rcases h'.1 (hk.trans hr) with e' | e' | e'
    · refine .inl ?_
      rw [e', e, lastWritten_append]
      cases lastWritten m a <;> rfl
    · exact .inr (.inl (e'.append_right n))
    · exact .inr (.inr ⟨hl.symm.trans e'.1, List.mem_append_left n e'.2⟩)
  · exact .inr (.inl (e.append_left m))
  · exact .inr (.inr ⟨e.1, List.mem_append_right m e.2⟩)

theorem ReadsAsLogged.append {s t : State} (hk : t.memMap = s.memMap) {n : List BusEvent} (hn : ReadsAsLogged s n)
    (h : ∀ a, HoldsAfter s n a (t.peek a)) {m : List BusEvent} (hm : ReadsAsLogged t m) : ReadsAsLogged s (m ++ n) := by
  intro later earlier c a v e hv hr
  have hr' : t.kindAt a = .ram ∨ t.kindAt a = .rom := by rwa [State.kindAt_of_memMap hk]
  rcases List.append_eq_append_iff.mp e with ⟨x, -, h2⟩ | ⟨x, h1, h2⟩
  · exact hn x earlier c a v h2 hv hr
  · cases x with
    | nil => exact hn [] earlier c a v (by simpa using h2.symm) hv hr
    | cons d x =>
      obtain ⟨rfl, rfl⟩ := List.cons.inj h2
      exact (h a).trans hk (hm later x c a v h1 hv hr')

theorem ReadsAsLogged.nil (s : State) : ReadsAsLogged s [] := fun later _ _ _ _ e => by cases later <;> cases e

/-- Events that read no memory. -/
theorem ReadsAsLogged.of_none {s : State} {n : List BusEvent} (h : ∀ c ∈ n, ∀ a, c.readFrom a = none) :
    ReadsAsLogged s n := fun later earlier c a v e hv => by
  rw [h c (by simp [e])] at hv
  cases hv

theorem MemoryAsLogged.trans {s t u : State} (h : MemoryAsLogged s t) (h' : MemoryAsLogged t u) : MemoryAsLogged s u := by
  obtain ⟨hk, n, hn, hr, hm⟩ := h
  obtain ⟨hk', n', hn', hr', hm'⟩ := h'
  exact ⟨hk'.trans hk, n' ++ n, by rw [hn', hn, List.append_assoc], hr.append hk hm hr', fun a => (hm a).trans hk (hm' a)⟩

/-- Before any event a location holds what it holds. -/
theorem HoldsAfter.start (s : State) (a : Word) : HoldsAfter s [] a (s.peek a) := ⟨fun _ => .inl rfl, fun _ => rfl⟩

/-- One event: a read is as logged if it finds what the location holds. -/
theorem ReadsAsLogged.single {s : State} {c : BusEvent}
    (h : ∀ a v, c.readFrom a = some v → s.kindAt a = .ram ∨ s.kindAt a = .rom → v = s.peek a) : ReadsAsLogged s [c] :=
  fun later earlier d a v e hv hr => by
    cases later with
    | nil =>
      cases e
      exact h a v hv hr ▸ HoldsAfter.start s a
    | cons x later => cases later <;> cases e

/-- States with the same memory whose logs differ by events that write nothing. -/
theorem MemoryAsLogged.of_events {s t : State} (n : List BusEvent) (hn : ∀ a, lastWritten n a = none)
    (hr : ReadsAsLogged s n) (hb : t.bus = n ++ s.bus) (hm : t.mem = s.mem) (hk : t.memMap = s.memMap) :
    MemoryAsLogged s t :=
  ⟨hk, n, hb, hr, fun a => ⟨fun _ => .inl (by rw [hn, State.peek, hm]; rfl), fun _ => by rw [State.peek, hm]; rfl⟩⟩

/-- States with the same memory and the same log. -/
theorem MemoryAsLogged.of_eq {s t : State} (hb : t.bus = s.bus) (hm : t.mem = s.mem) (hk : t.memMap = s.memMap) :
    MemoryAsLogged s t :=
  .of_events [] (fun _ => rfl) (.nil s) hb hm hk

theorem MemoryAsLogged.refl (s : State) : MemoryAsLogged s s := .of_eq rfl rfl rfl

/-- RAM that loses its contents, and the event that says that RESET IN arrived (R353). -/
theorem MemoryAsLogged.resetMemory {s t : State} (hb : t.bus = .resetOut :: s.bus) (hm : t.mem = s.resetMemory.mem)
    (hk : t.memMap = s.memMap) : MemoryAsLogged s t := by
  refine ⟨hk, [.resetOut], hb, ReadsAsLogged.single (fun _ _ h => by cases h), fun a => ?_⟩
  have hp : t.peek a = s.resetMemory.peek a := by rw [State.peek, hm, State.peek]
  rw [hp]
  refine ⟨fun _ => ?_, fun hr => s.resetMemory_kept (State.kept_of_not_ram hr)⟩
  cases hl : s.losesAt a
  · exact .inl (s.resetMemory_kept hl)
  · exact .inr (.inr ⟨rfl, by simp⟩)

theorem OutsideOnly.refl (s : State) : OutsideOnly s s :=
  ⟨rfl, rfl, rfl, rfl, rfl, id, id, MemoryAsLogged.refl s, id, id, id, fun _ => rfl⟩

theorem OutsideOnly.trans {s t u : State} (h : OutsideOnly s t) (h' : OutsideOnly t u) : OutsideOnly s u := by
  refine ⟨h'.regs.trans h.regs, h'.flags.trans h.flags, h'.sp.trans h.sp, h'.pc.trans h.pc, by rw [h'.ctl, h.ctl],
    h'.trapFF ∘ h.trapFF, h'.r75 ∘ h.r75, h.memory.trans h'.memory, h'.wf ∘ h.wf, h'.hold ∘ h.hold,
    h'.resetting ∘ h.resetting, fun hu => ?_⟩
  have ht : t.resetting = false := by
    cases e : t.resetting
    · rfl
    · rw [h'.resetting e] at hu
      exact hu
  rw [h'.resets hu, h.resets ht]

theorem OutsideOnly.memMap {s t : State} (h : OutsideOnly s t) : t.memMap = s.memMap := h.memory.1

/-- Storing a byte keeps the canonical form of memory. -/
theorem State.poke_wf (s : State) (a : Word) (v : Byte) (h : s.mem.wf = true) : (s.poke a v).mem.wf = true := by
  by_cases hk : mapKind s.memMap a.toNat = .ram
  · rw [State.poke_mem, stored_ram hk]
    exact Memory.wf_set h a.isLt v
  · rw [State.poke_mem, stored_not_ram hk]
    exact h

/-- Storing a byte leaves every other address alone. -/
theorem State.peek_poke_other (s : State) (a x : Word) (v : Byte) (h : x ≠ a) : (s.poke a v).peek x = s.peek x := by
  unfold State.peek
  by_cases hk : mapKind s.memMap a.toNat = .ram
  · rw [State.poke_mem, stored_ram hk]
    exact Memory.get_set_other _ _ _ _ fun e => h (BitVec.eq_of_toNat_eq e)
  · rw [State.poke_mem, stored_not_ram hk]

/-- RAM holds the byte stored. -/
theorem State.peek_poke_ram (s : State) (a : Word) (v : Byte) (h : s.kindAt a = .ram) : (s.poke a v).peek a = v := by
  unfold State.peek
  rw [State.poke_mem, stored_ram h]
  exact Memory.get_set_same _ _ _

/-- What is not RAM keeps its byte. -/
theorem State.poke_not_ram (s : State) (a : Word) (v : Byte) (h : s.kindAt a ≠ .ram) : s.poke a v = s := by
  rw [State.poke, stored_not_ram h]

/-- All that storing a byte does (R46). -/
theorem StoresByte.poke (s : State) (a : Word) (v : Byte) : StoresByte s (s.poke a v) a v :=
  ⟨fun x hx => s.peek_poke_other a x v hx, s.peek_poke_ram a v, fun h => by rw [s.poke_not_ram a v h]⟩

/-- A byte stored and the event that says so. -/
theorem MemoryAsLogged.store (s : State) (a : Word) (v : Byte) (c : BusEvent)
    (hc : ∀ x, c.written x = if a = x then some v else none) :
    MemoryAsLogged s { s.poke a v with bus := c :: s.bus } := by
  have hw : ∀ x, c.readFrom x = none := by
    intro x
    have := hc a
    cases c with
    | master m => cases m <;> simp_all [BusEvent.written, BusEvent.readFrom]
    | _ => simp_all [BusEvent.written, BusEvent.readFrom]
  refine ⟨rfl, [c], rfl, .single fun x w h => by simp [hw] at h, fun x => ⟨fun hr => .inl ?_, fun hr => ?_⟩⟩
  · show (s.poke a v).peek x = _
    simp only [lastWritten, hc]
    by_cases hx : a = x
    · subst hx
      rw [s.peek_poke_ram a v hr, if_pos rfl]
      rfl
    · rw [s.peek_poke_other a x v fun e => hx e.symm, if_neg hx]
      rfl
  · show (s.poke a v).peek x = _
    by_cases hx : x = a
    · subst hx
      rw [s.poke_not_ram x v hr]
    · exact s.peek_poke_other a x v hx

theorem OutsideOnly.setPin (s : State) (p : Pin) (level : Bool) : OutsideOnly s (s.setPin p level) := by
  cases p <;>
    exact ⟨rfl, rfl, rfl, rfl, rfl, by intro h; simp [State.setPin, h], by intro h; simp [State.setPin, h],
      MemoryAsLogged.of_eq rfl rfl rfl, id, by simp [State.setPin], id, fun _ => rfl⟩

/-- Logging an event that writes no memory; if it reads memory, it found what the location holds. -/
theorem OutsideOnly.log (s : State) (c : BusEvent) (hc : ∀ a, c.written a = none)
    (hr : ∀ a v, c.readFrom a = some v → s.kindAt a = .ram ∨ s.kindAt a = .rom → v = s.peek a) :
    OutsideOnly s { s with bus := c :: s.bus } :=
  ⟨rfl, rfl, rfl, rfl, rfl, id, id,
    MemoryAsLogged.of_events [c] (fun a => by simp [lastWritten, hc]) (.single hr) rfl rfl rfl, id, id, id, fun _ => rfl⟩

/-- Changing only the platform and draws. -/
theorem OutsideOnly.account (s : State) (p : Platform) (n : Nat) :
    OutsideOnly s { s with platform := p, draws := n } :=
  ⟨rfl, rfl, rfl, rfl, rfl, id, id, MemoryAsLogged.of_eq rfl rfl rfl, id, id, id, fun _ => rfl⟩

theorem OutsideOnly.readByte (s : State) (a : Word) : OutsideOnly s (s.readByte a).2 := by
  rw [State.readByte_state]
  exact OutsideOnly.account s _ _

theorem OutsideOnly.readPort (s : State) (p : Byte) : OutsideOnly s (s.readPort p).2 := by
  rw [State.readPort_state]
  exact OutsideOnly.account s _ _

/-- A read of RAM or ROM that is logged with the byte it found. -/
theorem State.readByte_found (s : State) (a x : Word) (v : Byte)
    (h : (if a = x then some (s.readByte a).1 else none) = some v)
    (hr : (s.readByte a).2.kindAt x = .ram ∨ (s.readByte a).2.kindAt x = .rom) : v = (s.readByte a).2.peek x := by
  split at h
  · next e =>
    subst e
    rw [State.kindAt_of_memMap (s.readByte_memMap a)] at hr
    cases h
    rw [s.readByte_memory a hr]
  · cases h

/-- A store followed by the log entry of the write. -/
theorem OutsideOnly.store (s : State) (a : Word) (v : Byte) (c : BusEvent)
    (hc : ∀ x, c.written x = if a = x then some v else none) :
    OutsideOnly s { s.poke a v with bus := c :: s.bus } :=
  ⟨rfl, rfl, rfl, rfl, rfl, id, id, MemoryAsLogged.store s a v c hc, State.poke_wf s a v, id, id, fun _ => rfl⟩

theorem OutsideOnly.masterAccess (s : State) (m : MasterAccess) : OutsideOnly s (s.masterAccess m) := by
  unfold State.masterAccess
  split
  · cases m with
    | memWrite a v => exact OutsideOnly.store s a v (.master (.memWrite a v)) fun _ => rfl
    | memRead a => exact (OutsideOnly.readByte s a).trans (OutsideOnly.log _ (.master (.memRead a (s.readByte a).1)) (fun _ => rfl) (s.readByte_found a))
    | ioRead p => exact (OutsideOnly.readPort s p).trans (OutsideOnly.log _ (.master (.ioRead p (s.readPort p).1)) (fun _ => rfl) fun _ _ h => by cases h)
    | ioWrite p v => exact OutsideOnly.log s (.master (.ioWrite p v)) (fun _ => rfl) fun _ _ h => by cases h
  · exact OutsideOnly.refl s

theorem OutsideOnly.changePlatform (s : State) (p : PlatformChange) : OutsideOnly s (s.changePlatform p) := by
  cases p <;> exact OutsideOnly.account s _ s.draws

/-- What the other master does to all but the script does not depend on the script. -/
theorem State.masterAccess_env (s : State) (m : MasterAccess) (e : List (List EnvEvent)) :
    State.masterAccess { s with env := e } m = { s.masterAccess m with env := e } := by
  simp only [State.masterAccess]
  split
  · cases m with
    | memRead a => simp only [State.masterCycle, State.readByte_withEnv]
    | memWrite a v => rfl
    | ioRead p => simp only [State.masterCycle, State.readPort_withEnv]
    | ioWrite p v => rfl
  · rfl

theorem State.masterAccess_keeps_env (s : State) (m : MasterAccess) : (s.masterAccess m).env = s.env := by
  unfold State.masterAccess
  split
  · cases m <;> simp [State.masterCycle]
  · rfl

/-- The events of a slot, taken from the front of the script. -/
theorem OutsideOnly.runEvents (es : List EnvEvent) (s : State) (rest : List (List EnvEvent)) :
    OutsideOnly { s with env := es :: rest } (State.runEvents { s with env := rest } es) := by
  induction es generalizing s with
  | nil =>
    exact ⟨rfl, rfl, rfl, rfl, rfl, id, id, MemoryAsLogged.of_eq rfl rfl rfl, id, id, id,
      fun _ => by simp [State.runEvents, resetsToCome]⟩
  | cons e es ih =>
    have skip (he : e ≠ .resetIn) : OutsideOnly { s with env := (e :: es) :: rest } { s with env := es :: rest } :=
      ⟨rfl, rfl, rfl, rfl, rfl, id, id, MemoryAsLogged.of_eq rfl rfl rfl, id, id, id,
        fun _ => by simp [resetsToCome, he]⟩
    cases e with
    | pin p level =>
      refine ((skip (by simp)).trans (OutsideOnly.setPin _ p level)).trans ?_
      have := ih (s.setPin p level)
      cases p <;> exact this
    | master m =>
      refine ((skip (by simp)).trans (OutsideOnly.masterAccess _ m)).trans ?_
      have := ih (s.masterAccess m)
      rw [State.runEvents, s.masterAccess_env m rest, s.masterAccess_env m (es :: rest)]
      exact this
    | platform p =>
      refine ((skip (by simp)).trans (OutsideOnly.changePlatform _ p)).trans ?_
      have := ih (s.changePlatform p)
      cases p <;> exact this
    | resetIn =>
      exact ⟨rfl, rfl, rfl, rfl, rfl, id, id, MemoryAsLogged.resetMemory rfl rfl rfl, State.resetMemory_wf s, id,
        fun _ => rfl, fun h => by simp [State.runEvents] at h⟩

theorem OutsideOnly.releaseHold (s : State) : OutsideOnly s s.releaseHold :=
  ⟨rfl, rfl, rfl, rfl, rfl, id, id, MemoryAsLogged.of_eq rfl rfl rfl, id, by simp [State.releaseHold], id, fun _ => rfl⟩

theorem OutsideOnly.takeSlot (s : State) : OutsideOnly s s.takeSlot := by
  unfold State.takeSlot
  split
  · exact OutsideOnly.releaseHold s
  · next slot rest h =>
    have := OutsideOnly.runEvents slot s rest
    rwa [← h] at this

/-- Without RESET IN a slot leaves the rest of the script as it is. -/
theorem State.runEvents_env (es : List EnvEvent) (s : State) (h : (s.runEvents es).resetting = false) :
    (s.runEvents es).env = s.env := by
  induction es generalizing s with
  | nil => rfl
  | cons e es ih =>
    cases e with
    | pin p level =>
      rw [State.runEvents, ih _ h]
      cases p <;> rfl
    | master m =>
      rw [State.runEvents, ih _ h, State.masterAccess_keeps_env]
    | platform p =>
      rw [State.runEvents, ih _ h]
      cases p <;> rfl
    | resetIn => simp [State.runEvents] at h

theorem OutsideOnly.sitOutHold (slots : List (List EnvEvent)) (s : State) (h : s.env = slots) :
    OutsideOnly s (s.sitOutHold slots) := by
  induction slots generalizing s with
  | nil =>
    unfold State.sitOutHold
    split
    · exact OutsideOnly.releaseHold s
    · exact OutsideOnly.refl s
  | cons slot rest ih =>
    unfold State.sitOutHold
    split
    · have hs := OutsideOnly.runEvents slot s rest
      rw [← h] at hs
      refine hs.trans ?_
      by_cases hr : (State.runEvents { s with env := rest } slot).resetting = true
      · unfold State.sitOutHold
        simp only [hr, Bool.not_true, Bool.and_false, Bool.false_eq_true, if_false]
        exact OutsideOnly.refl _
      · exact ih _ (State.runEvents_env slot _ (by simpa using hr))
    · exact OutsideOnly.refl s

theorem OutsideOnly.awaitBus (s : State) : OutsideOnly s s.awaitBus := OutsideOnly.sitOutHold _ s rfl

theorem OutsideOnly.grantHold (s : State) : OutsideOnly s s.grantHold := by
  unfold State.grantHold
  split
  · next h => exact ⟨rfl, rfl, rfl, rfl, rfl, id, id, MemoryAsLogged.of_eq rfl rfl rfl, id, fun _ _ => h, id, fun _ => rfl⟩
  · exact OutsideOnly.refl s

/-- What the slot before a boundary is: a halted CPU may be granted a hold in it, any other not (R331, R335). -/
theorem State.boundarySlot_cases (s : State) :
    (s.takeSlot.ctl.halted = true ∧ s.boundarySlot = s.takeSlot.grantHold)
    ∨ (s.takeSlot.ctl.halted = false ∧ s.boundarySlot = s.takeSlot) := by
  unfold State.boundarySlot
  cases h : s.takeSlot.ctl.halted
  · exact .inr ⟨rfl, if_neg (by simp [h])⟩
  · exact .inl ⟨rfl, if_pos h⟩

theorem OutsideOnly.boundarySlot (s : State) : OutsideOnly s s.boundarySlot := by
  rcases s.boundarySlot_cases with ⟨-, e⟩ | ⟨-, e⟩ <;> rw [e]
  · exact (OutsideOnly.takeSlot s).trans (OutsideOnly.grantHold _)
  · exact OutsideOnly.takeSlot s

/-- A machine cycle goes into the log, then only the outside acts. -/
theorem OutsideOnly.runCycle (s : State) (c : BusEvent) : OutsideOnly { s with bus := c :: s.bus } (s.runCycle c) :=
  OutsideOnly.takeSlot _

theorem OutsideOnly.endCycle (s : State) (c : BusEvent) : OutsideOnly { s with bus := c :: s.bus } (s.endCycle c) :=
  (OutsideOnly.runCycle s c).trans (OutsideOnly.grantHold _)

/-- What the outside sees of SOD writes no memory (R267). -/
theorem lastWritten_sodChange (x y : Bool) (a : Word) : lastWritten (sodChange x y) a = none := by
  unfold sodChange
  split <;> rfl

/-- Nor does it read any. -/
theorem ReadsAsLogged.sodChange (s : State) (x y : Bool) : ReadsAsLogged s (Machine.sodChange x y) := by
  unfold Machine.sodChange
  split
  · exact .nil s
  · exact .single fun _ _ h => by cases h

/-- Showing a change of SOD. -/
theorem OutsideOnly.sodChange (s : State) (x y : Bool) :
    OutsideOnly s { s with bus := Machine.sodChange x y ++ s.bus } :=
  ⟨rfl, rfl, rfl, rfl, rfl, id, id, MemoryAsLogged.of_events _ (lastWritten_sodChange x y)
    (.sodChange s x y) rfl rfl rfl, id, id, id, fun _ => rfl⟩

/-- RESET IN leaves memory and the map as they are (R353). -/
theorem MemoryAsLogged.afterReset (s : State) : MemoryAsLogged s s.afterReset :=
  .of_events _ (lastWritten_sodChange s.ctl.sod false) (.sodChange s _ _) rfl rfl rfl

/-- Where no hold is requested there is none to release. -/
theorem State.releaseHold_idle {s : State} (hp : s.pins.hold = false) (hf : s.ctl.hldaFF = false) : s.releaseHold = s := by
  obtain ⟨regs, flags, sp, pc, ctl, mem, memMap, pins, env, platform, bus, draws, resetting⟩ := s
  obtain ⟨trap, rst75, rst65, rst55, intr, sid, hold⟩ := pins
  obtain ⟨ie, m55, m65, m75, r75, trapFF, sod, tie, tieV, eiInh, halted, hldaFF⟩ := ctl
  cases hp
  cases hf
  rfl

theorem State.takeSlot_quiet {s : State} (h : s.Undisturbed) : s.takeSlot = s := by
  unfold State.takeSlot
  rw [h.1]
  exact State.releaseHold_idle h.2.2.1 h.2.2.2

/-- Once it has waited the CPU has the bus, or RESET IN has arrived (R335, R352). -/
theorem State.sitOutHold_done (slots : List (List EnvEvent)) (s : State) :
    (s.sitOutHold slots).resetting = true ∨ (s.sitOutHold slots).ctl.hldaFF = false := by
  induction slots generalizing s with
  | nil =>
    unfold State.sitOutHold
    split
    · exact .inr rfl
    · next h => cases hr : s.resetting <;> simp_all
  | cons slot rest ih =>
    unfold State.sitOutHold
    split
    · exact ih _
    · next h => cases hr : s.resetting <;> simp_all

theorem State.awaitBus_done {s : State} (h : s.awaitBus.resetting = false) : s.awaitBus.ctl.hldaFF = false := by
  rcases State.sitOutHold_done s.env s with e | e
  · rw [State.awaitBus, e] at h
    cases h
  · exact e

/-- While the CPU has the bus the other master does nothing: a slot changes no byte, unless RESET IN makes RAM lose it, and only
RESET IN shows in the log. -/
theorem State.runEvents_of_bus (es : List EnvEvent) (s : State) (h : s.ctl.hldaFF = false) :
    (∀ a, s.losesAt a = false → (s.runEvents es).peek a = s.peek a) ∧
      ((s.runEvents es).resetting = true → s.resetting = false → (s.runEvents es).bus = .resetOut :: s.bus) := by
  induction es generalizing s with
  | nil => exact ⟨fun _ _ => rfl, fun h1 h2 => by rw [State.runEvents, h2] at h1; cases h1⟩
  | cons e es ih =>
    cases e with
    | pin p level =>
      have := ih (s.setPin p level) (by cases p <;> simp [State.setPin, h])
      cases p <;> exact this
    | master m =>
      have : s.masterAccess m = s := by simp [State.masterAccess, h]
      rw [State.runEvents, this]
      exact ih s h
    | platform p =>
      have := ih (s.changePlatform p) (by cases p <;> exact h)
      cases p <;> exact this
    | resetIn => exact ⟨fun _ ha => s.resetMemory_kept ha, fun _ _ => rfl⟩

theorem State.takeSlot_of_bus (s : State) (h : s.ctl.hldaFF = false) (hr : s.resetting = false) :
    (∀ a, s.losesAt a = false → s.takeSlot.peek a = s.peek a)
      ∧ (s.takeSlot.resetting = true → s.takeSlot.bus = .resetOut :: s.bus) := by
  unfold State.takeSlot
  split
  · exact ⟨fun _ _ => rfl, fun h1 => by rw [State.releaseHold, hr] at h1; cases h1⟩
  · next slot rest _ =>
    have := State.runEvents_of_bus slot { s with env := rest } h
    exact ⟨this.1, fun h1 => this.2 h1 hr⟩

/-- A CPU that has the bus waits for nothing. -/
theorem State.awaitBus_of_bus {s : State} (h : s.ctl.hldaFF = false) : s.awaitBus = s := by
  unfold State.awaitBus State.sitOutHold
  simp only [h, Bool.false_and, Bool.false_eq_true, if_false]

theorem State.grantHold_idle {s : State} (h : s.pins.hold = false) : s.grantHold = s := by
  simp only [State.grantHold, h, Bool.false_eq_true, if_false]

theorem State.boundarySlot_quiet {s : State} (h : s.Undisturbed) : s.boundarySlot = s := by
  rcases s.boundarySlot_cases with ⟨-, e⟩ | ⟨-, e⟩ <;> rw [e, State.takeSlot_quiet h]
  exact State.grantHold_idle h.2.2.1

/-- Where HOLD is high the grant raises HLDA (R335). -/
theorem State.grantHold_up {s : State} (h : s.grantHold.pins.hold = true) : s.grantHold.ctl.hldaFF = true := by
  unfold State.grantHold at h ⊢
  split
  · rfl
  · next hn =>
    rw [if_neg hn] at h
    exact absurd h hn

/-- No event of the outside raises HLDA (R335). -/
theorem State.runEvents_hldaFF (es : List EnvEvent) (s : State) (h : s.ctl.hldaFF = false) :
    (s.runEvents es).ctl.hldaFF = false := by
  induction es generalizing s with
  | nil => exact h
  | cons e es ih =>
    cases e with
    | pin p level => cases p <;> exact ih _ (by simp [State.setPin, h])
    | master m =>
      have : s.masterAccess m = s := by simp [State.masterAccess, h]
      rw [State.runEvents, this]
      exact ih s h
    | platform p =>
      rw [State.runEvents]
      cases p <;> exact ih _ h
    | resetIn => exact h

theorem State.takeSlot_hldaFF {s : State} (h : s.ctl.hldaFF = false) : s.takeSlot.ctl.hldaFF = false := by
  unfold State.takeSlot
  split
  · rfl
  · exact State.runEvents_hldaFF _ _ h

theorem State.runCycle_quiet {s : State} (h : s.Undisturbed) (c : BusEvent) :
    s.runCycle c = { s with bus := c :: s.bus } :=
  State.takeSlot_quiet (s := { s with bus := c :: s.bus }) h

/-- With the outside keeping still, the end of a machine cycle is its log entry. -/
theorem State.endCycle_quiet {s : State} (h : s.Undisturbed) (c : BusEvent) :
    s.endCycle c = { s with bus := c :: s.bus } := by
  rw [State.endCycle, State.runCycle_quiet h, State.grantHold_idle (s := { s with bus := c :: s.bus }) h.2.2.1]

end Sys2Proof.Machine
end

