-- ==== Sys2Proof/Laws/Ops.lean ====
section
/-! SUPPORT. For each operation of Machine/Ops.lean, once: what it can do in any state (`OutsideOnly`), and what it does where
the outside keeps still (`_quiet`). -/

namespace Sys2Proof.Machine

/-! In any state. -/

theorem OutsideOnly.draw8 (s : State) : OutsideOnly s s.draw8.2 := OutsideOnly.account s s.platform (s.draws + 1)

theorem OutsideOnly.draw1 (s : State) : OutsideOnly s s.draw1.2 := OutsideOnly.account s s.platform (s.draws + 1)

theorem OutsideOnly.dataBus (s : State) (v : Option Byte) : OutsideOnly s (s.dataBus v).2 := by
  rw [State.dataBus_state]
  exact OutsideOnly.account s s.platform _

theorem OutsideOnly.readResponder (s : State) (k : AckCycle) : OutsideOnly s (s.readResponder k).2 := OutsideOnly.dataBus s _

/-- A machine cycle that writes no memory, at the end of which the outside acts; if it reads memory, it found what the location
holds. -/
theorem OutsideOnly.cycle {s t : State} (h : OutsideOnly s t) (c : BusEvent) (hc : ∀ a, c.written a = none)
    (hr : ∀ a v, c.readFrom a = some v → t.kindAt a = .ram ∨ t.kindAt a = .rom → v = t.peek a) :
    OutsideOnly s (t.endCycle c) :=
  (h.trans (OutsideOnly.log t c hc hr)).trans (OutsideOnly.endCycle t c)

theorem OutsideOnly.opcodeFetch (s : State) (a : Word) : OutsideOnly s (s.opcodeFetch a).2 := by
  refine (OutsideOnly.awaitBus s).trans ?_
  unfold State.opcodeFetch
  simp only
  split
  · exact OutsideOnly.draw8 _
  · exact (OutsideOnly.readByte _ a).cycle _ (fun _ => rfl) (State.readByte_found _ a)

theorem OutsideOnly.memRead (s : State) (a : Word) : OutsideOnly s (s.memRead a).2 := by
  refine (OutsideOnly.awaitBus s).trans ?_
  unfold State.memRead
  simp only
  split
  · exact OutsideOnly.draw8 _
  · exact (OutsideOnly.readByte _ a).cycle _ (fun _ => rfl) (State.readByte_found _ a)

theorem OutsideOnly.ioRead (s : State) (p : Byte) : OutsideOnly s (s.ioRead p).2 := by
  refine (OutsideOnly.awaitBus s).trans ?_
  unfold State.ioRead
  simp only
  split
  · exact OutsideOnly.draw8 _
  · exact (OutsideOnly.readPort _ p).cycle _ (fun _ => rfl) fun _ _ h => by cases h

theorem OutsideOnly.intaRead (s : State) (k : AckCycle) : OutsideOnly s (s.intaRead k).2 := by
  refine (OutsideOnly.awaitBus s).trans ?_
  unfold State.intaRead
  simp only
  split
  · exact OutsideOnly.draw8 _
  · exact (OutsideOnly.readResponder _ k).cycle _ (fun _ => rfl) fun _ _ h => by cases h

theorem OutsideOnly.ioWrite (s : State) (p v : Byte) : OutsideOnly s (s.ioWrite p v) := by
  refine (OutsideOnly.awaitBus s).trans ?_
  unfold State.ioWrite
  simp only
  split
  · exact OutsideOnly.refl _
  · exact (OutsideOnly.refl _).cycle _ (fun _ => rfl) fun _ _ h => by cases h

theorem OutsideOnly.busIdle (s : State) (c : BusEvent) (hc : ∀ a, c.written a = none) (hr : ∀ a, c.readFrom a = none) :
    OutsideOnly s (s.busIdle c) := by
  refine (OutsideOnly.awaitBus s).trans ?_
  unfold State.busIdle
  simp only
  split
  · exact OutsideOnly.refl _
  · exact (OutsideOnly.refl _).cycle _ hc fun a v h => by simp [hr] at h

/-- A write that RESET IN interrupts: a free byte at its address, and the log shows the reset directly after it (R352). -/
theorem MemoryAsLogged.interrupted {s : State} (hb : s.ctl.hldaFF = false) (hr : s.resetting = false) (a : Word)
    (v w : Byte) (h : ((s.poke a v).runCycle (.memWrite a v)).resetting = true) (n : Nat) :
    MemoryAsLogged s (State.poke { (s.poke a v).runCycle (.memWrite a v) with draws := n } a w) := by
  have hs := State.takeSlot_of_bus { s.poke a v with bus := .memWrite a v :: s.bus } hb hr
  have hk : ((s.poke a v).runCycle (.memWrite a v)).memMap = s.memMap :=
    (OutsideOnly.takeSlot { s.poke a v with bus := .memWrite a v :: s.bus }).memMap
  have hm : ∀ x, s.losesAt x = false → ((s.poke a v).runCycle (.memWrite a v)).peek x = (s.poke a v).peek x := hs.1
  have hl : ((s.poke a v).runCycle (.memWrite a v)).bus = .resetOut :: .memWrite a v :: s.bus := hs.2 h
  generalize (s.poke a v).runCycle (.memWrite a v) = u at hk hm hl
  have hp (x : Word) (hx : s.losesAt x = false) : State.peek { u with draws := n } x = (s.poke a v).peek x := hm x hx
  refine ⟨hk, [.resetOut, .memWrite a v], hl, .of_none (by simp [BusEvent.readFrom]), fun x => ?_⟩
  by_cases hx : x = a
  · subst hx
    refine ⟨fun _ => .inr (.inl ⟨[], [], v, rfl⟩), fun hn => ?_⟩
    rw [State.poke_not_ram { u with draws := n } x w fun e => hn ((State.kindAt_of_memMap hk x).symm.trans e),
      hp x (State.kept_of_not_ram hn),
      State.poke_not_ram s x v hn]
  · rw [State.peek_poke_other _ a x w hx]
    cases hl : s.losesAt x with
    | true => exact ⟨fun _ => .inr (.inr ⟨hl, by simp⟩), fun hn => absurd hl (by simp [State.kept_of_not_ram hn])⟩
    | false =>
    rw [hp x hl, State.peek_poke_other s a x v hx]
    refine ⟨fun _ => .inl ?_, fun _ => rfl⟩
    rw [show lastWritten [.resetOut, .memWrite a v] x = none by simp [lastWritten, BusEvent.written, Ne.symm hx]]
    rfl

/-- `MemWrite`: the write is logged; RAM holds the byte, or a free one where RESET IN interrupted the write. -/
theorem OutsideOnly.memWrite (s : State) (a : Word) (v : Byte) : OutsideOnly s (s.memWrite a v) := by
  refine (OutsideOnly.awaitBus s).trans ?_
  unfold State.memWrite
  simp only
  have hb := State.awaitBus_done (s := s)
  generalize s.awaitBus = t at hb
  split
  · exact OutsideOnly.refl t
  · next hr =>
    have hr' : t.resetting = false := by simpa using hr
    refine OutsideOnly.trans ?_ (OutsideOnly.grantHold _)
    have h : OutsideOnly t ((t.poke a v).runCycle (.memWrite a v)) :=
      (OutsideOnly.store t a v (.memWrite a v) fun _ => rfl).trans (OutsideOnly.runCycle (t.poke a v) (.memWrite a v))
    unfold State.blurWrite
    split
    · next hu =>
      have hd := h.trans (OutsideOnly.draw8 _)
      exact ⟨hd.regs, hd.flags, hd.sp, hd.pc, hd.ctl, hd.trapFF, hd.r75,
        MemoryAsLogged.interrupted (hb hr') hr' a v _ hu _, fun w => State.poke_wf _ _ _ (hd.wf w), hd.hold, hd.resetting,
        hd.resets⟩
    · exact h

/-- `push16`: two writes, then SP lower by 2 (R54). -/
theorem OutsideOnly.push16 (s : State) (v : Word) :
    ∃ t, OutsideOnly s t ∧ s.push16 v = { t with sp := s.sp - 2 } :=
  ⟨_, (OutsideOnly.memWrite s _ _).trans (OutsideOnly.memWrite _ _ _), rfl⟩

/-- `pop16`: two reads, then SP higher by 2 (R55). -/
theorem OutsideOnly.pop16 (s : State) : ∃ t, OutsideOnly s t ∧ s.pop16.2 = { t with sp := s.sp + 2 } :=
  ⟨_, (OutsideOnly.memRead s _).trans (OutsideOnly.memRead _ _), rfl⟩

/-! Where the outside keeps still. -/

theorem State.Undisturbed.account {s t : State} (h : s.Undisturbed) (he : t.env = s.env) (hr : t.resetting = s.resetting)
    (hp : t.pins = s.pins) (hc : t.ctl = s.ctl) : t.Undisturbed := by
  rw [State.Undisturbed, he, hr, hp, hc]
  exact h

theorem State.readByte_withBus (s : State) (b : List BusEvent) (a : Word) :
    State.readByte { s with bus := b } a = ((s.readByte a).1, { (s.readByte a).2 with bus := b }) := by
  have hk : State.kindAt { s with bus := b } a = s.kindAt a := rfl
  simp only [State.readByte, hk]
  cases s.kindAt a
  · rfl
  · rfl
  · simp only [State.readDevice, State.dataBus]
    split <;> rfl
  · rfl

theorem State.Undisturbed.readByte {s : State} (h : s.Undisturbed) (a : Word) : (s.readByte a).2.Undisturbed :=
  h.account (by simp) (by simp) (by simp) (by simp)

theorem State.Undisturbed.readPort {s : State} (h : s.Undisturbed) (p : Byte) : (s.readPort p).2.Undisturbed :=
  h.account (by simp) (by simp) (by simp) (by simp)

theorem State.Undisturbed.readResponder {s : State} (h : s.Undisturbed) (k : AckCycle) : (s.readResponder k).2.Undisturbed :=
  h.account (by simp) (by simp) (by simp) (by simp)

theorem State.Undisturbed.poke {s : State} (h : s.Undisturbed) (a : Word) (v : Byte) : (s.poke a v).Undisturbed :=
  h.account (by simp) (by simp) (by simp) (by simp)

theorem State.Undisturbed.withBus {s : State} (h : s.Undisturbed) (b : List BusEvent) :
    State.Undisturbed { s with bus := b } := h

theorem State.opcodeFetch_quiet {s : State} (h : s.Undisturbed) (a : Word) :
    s.opcodeFetch a
      = ((s.readByte a).1, { (s.readByte a).2 with bus := .opcodeFetch a (s.readByte a).1 :: s.bus }) := by
  simp only [State.opcodeFetch, State.awaitBus_of_bus h.2.2.2, h.2.1, Bool.false_eq_true, if_false, State.endCycle_quiet (h.readByte a),
    State.readByte_bus]

theorem State.memRead_quiet {s : State} (h : s.Undisturbed) (a : Word) :
    s.memRead a = ((s.readByte a).1, { (s.readByte a).2 with bus := .memRead a (s.readByte a).1 :: s.bus }) := by
  simp only [State.memRead, State.awaitBus_of_bus h.2.2.2, h.2.1, Bool.false_eq_true, if_false, State.endCycle_quiet (h.readByte a),
    State.readByte_bus]

theorem State.memWrite_quiet {s : State} (h : s.Undisturbed) (a : Word) (v : Byte) :
    s.memWrite a v = { s.poke a v with bus := .memWrite a v :: s.bus } := by
  simp only [State.memWrite, State.awaitBus_of_bus h.2.2.2, h.2.1, Bool.false_eq_true, if_false,
    State.runCycle_quiet (h.poke a v), State.blurWrite, State.poke_bus, State.poke_resetting]
  exact State.grantHold_idle h.2.2.1

theorem State.ioRead_quiet {s : State} (h : s.Undisturbed) (p : Byte) :
    s.ioRead p = ((s.readPort p).1, { (s.readPort p).2 with bus := .ioRead p (s.readPort p).1 :: s.bus }) := by
  simp only [State.ioRead, State.awaitBus_of_bus h.2.2.2, h.2.1, Bool.false_eq_true, if_false, State.endCycle_quiet (h.readPort p),
    State.readPort_bus]

theorem State.intaRead_quiet {s : State} (h : s.Undisturbed) (k : AckCycle) :
    s.intaRead k = ((s.readResponder k).1, { (s.readResponder k).2 with bus := .intAck (s.readResponder k).1 :: s.bus }) := by
  simp only [State.intaRead, State.awaitBus_of_bus h.2.2.2, h.2.1, Bool.false_eq_true, if_false,
    State.endCycle_quiet (h.readResponder k), State.readResponder_bus]

theorem State.ioWrite_quiet {s : State} (h : s.Undisturbed) (p v : Byte) :
    s.ioWrite p v = { s with bus := .ioWrite p v :: s.bus } := by
  simp only [State.ioWrite, State.awaitBus_of_bus h.2.2.2, h.2.1, Bool.false_eq_true, if_false, State.endCycle_quiet h]

theorem State.busIdle_quiet {s : State} (h : s.Undisturbed) (c : BusEvent) :
    s.busIdle c = { s with bus := c :: s.bus } := by
  simp only [State.busIdle, State.awaitBus_of_bus h.2.2.2, h.2.1, Bool.false_eq_true, if_false, State.endCycle_quiet h]

/-- Two writes one after the other. -/
theorem State.memWrite_memWrite_quiet {s : State} (h : s.Undisturbed) (a b : Word) (v w : Byte) :
    (s.memWrite a v).memWrite b w
      = { (s.poke a v).poke b w with bus := .memWrite b w :: .memWrite a v :: s.bus } := by
  rw [State.memWrite_quiet h, State.memWrite_quiet ((h.poke a v).withBus _)]
  rfl

/-- Two reads one after the other. -/
theorem State.memRead_memRead_quiet {s : State} (h : s.Undisturbed) (a b : Word) :
    (s.memRead a).2.memRead b
      = (((s.readByte a).2.readByte b).1,
          { ((s.readByte a).2.readByte b).2 with
            bus := .memRead b ((s.readByte a).2.readByte b).1 :: .memRead a (s.readByte a).1 :: s.bus }) := by
  rw [State.memRead_quiet h]
  simp only []
  rw [State.memRead_quiet ((h.readByte a).withBus _), State.readByte_withBus]

/-- `push16` where the outside keeps still (R54). -/
theorem State.push16_quiet {s : State} (h : s.Undisturbed) (v : Word) :
    s.push16 v
      = { (s.poke (s.sp - 1) (hiByte v)).poke (s.sp - 2) (loByte v) with
          sp := s.sp - 2
          bus := .memWrite (s.sp - 2) (loByte v) :: .memWrite (s.sp - 1) (hiByte v) :: s.bus } := by
  simp only [State.push16, State.memWrite_memWrite_quiet h]

/-- `pop16` where the outside keeps still (R55). -/
theorem State.pop16_quiet {s : State} (h : s.Undisturbed) :
    s.pop16
      = (joinBytes ((s.readByte s.sp).2.readByte (s.sp + 1)).1 (s.readByte s.sp).1,
          { ((s.readByte s.sp).2.readByte (s.sp + 1)).2 with
            sp := s.sp + 2
            bus := .memRead (s.sp + 1) ((s.readByte s.sp).2.readByte (s.sp + 1)).1
              :: .memRead s.sp (s.readByte s.sp).1 :: s.bus }) := by
  simp only [State.pop16, State.memRead_memRead_quiet h]
  rw [State.memRead_quiet h]

end Sys2Proof.Machine
end

