-- ==== Sys2Proof/Laws/Entry.lean ====
section
/-! SUPPORT. What taking an interrupt, returning, calling and DAD do, said once; and what the fetch of an instruction does
where the outside keeps still. -/

namespace Sys2Proof.Machine

/-- EI, DI and a further interrupt touch only the saved enable status and the count of draws (R316). -/
theorem State.disturbTie_state (s : State) :
    s.disturbTie
      = { s with ctl := { s.ctl with tie := s.disturbTie.ctl.tie }, draws := s.disturbTie.draws } := by
  unfold State.disturbTie
  split <;> rfl

/-- While no saved status is valid nothing is disturbed (R316). -/
theorem State.disturbTie_of_not_valid {s : State} (h : s.ctl.tieV = false) : s.disturbTie = s := by
  simp [State.disturbTie, h]

/-- What an acknowledge leaves of the control bits (R313, R314). -/
theorem State.acknowledge_ctl (s : State) (src : Restart) :
    (s.acknowledge src).ctl
      = { s.ctl with
          tie := (s.acknowledge src).ctl.tie
          tieV := match src with
            | .trap => true
            | .rst75 | .rst65 | .rst55 => s.ctl.tieV
          trapFF := match src with
            | .trap => false
            | .rst75 | .rst65 | .rst55 => s.ctl.trapFF
          r75 := match src with
            | .rst75 => false
            | .trap | .rst65 | .rst55 => s.ctl.r75 } := by
  cases src <;> simp only [State.acknowledge, State.disturbTie] <;> split <;> rfl

/-- An acknowledge touches only control bits and the count of draws. -/
theorem State.acknowledge_state (s : State) (src : Restart) :
    s.acknowledge src = { s with ctl := (s.acknowledge src).ctl, draws := (s.acknowledge src).draws } := by
  cases src <;> simp only [State.acknowledge, State.disturbTie] <;> split <;> rfl

/-- So does accepting. -/
theorem State.accepting_state (s : State) (src : Restart) :
    s.accepting src = { s with ctl := (s.accepting src).ctl, draws := (s.accepting src).draws } := by
  unfold State.accepting
  rw [State.acknowledge_state]

/-- What accepting leaves of the control bits (R313 to R315, R319). -/
theorem State.accepting_ctl (s : State) (src : Restart) :
    (s.accepting src).ctl
      = { s.ctl with
          halted := false
          ie := false
          tie := (s.accepting src).ctl.tie
          tieV := match src with
            | .trap => true
            | .rst75 | .rst65 | .rst55 => s.ctl.tieV
          trapFF := match src with
            | .trap => false
            | .rst75 | .rst65 | .rst55 => s.ctl.trapFF
          r75 := match src with
            | .rst75 => false
            | .trap | .rst65 | .rst55 => s.ctl.r75 } := by
  unfold State.accepting
  simp only
  rw [State.acknowledge_ctl]

/-- TRAP saves the enable status for the first RIM (R314). -/
theorem State.accepting_trap_tie {s : State} (h : s.ctl.tieV = false) : (s.accepting .trap).ctl.tie = s.ctl.ie := by
  simp [State.accepting, State.acknowledge, h]

/-- A maskable restart leaves the saved enable status alone while it is not valid (R316). -/
theorem State.accepting_tie {s : State} (src : Restart) (hs : src ≠ .trap) (h : s.ctl.tieV = false) :
    (s.accepting src).ctl.tie = s.ctl.tie := by
  cases src <;> simp_all [State.accepting, State.acknowledge, State.disturbTie]

@[simp] theorem State.accepting_sp (s : State) (src : Restart) : (s.accepting src).sp = s.sp := by
  rw [State.accepting_state]

theorem State.Undisturbed.accepting {s : State} (h : s.Undisturbed) (src : Restart) : (s.accepting src).Undisturbed := by
  have hc := s.accepting_ctl src
  rw [State.Undisturbed, State.accepting_state]
  refine ⟨h.1, h.2.1, h.2.2.1, ?_⟩
  show (s.accepting src).ctl.hldaFF = false
  rw [hc]
  exact h.2.2.2

/-- Taking a restart interrupt, in any state: accepted, the outside acting in three machine cycles, SP lower by 2, `pc` at
the entry address (R315, R319). -/
theorem State.enterRestart_spec (s : State) (src : Restart) :
    ∃ u : State, OutsideOnly (s.accepting src) u ∧
      s.enterRestart src = { u with sp := s.sp - 2, pc := src.address } := by
  obtain ⟨t, ht, hp⟩ := OutsideOnly.push16 ((s.accepting src).busIdle .idleAck) s.pc
  have hb := OutsideOnly.busIdle (s.accepting src) .idleAck (fun _ => rfl) fun _ => rfl
  refine ⟨t, hb.trans ht, ?_⟩
  rw [State.enterRestart, hp, hb.sp, State.accepting_sp]

/-- Taking a restart interrupt where the outside keeps still. -/
theorem State.enterRestart_quiet {s : State} (h : s.Undisturbed) (src : Restart) :
    s.enterRestart src
      = { (s.poke (s.sp - 1) (hiByte s.pc)).poke (s.sp - 2) (loByte s.pc) with
          sp := s.sp - 2
          pc := src.address
          ctl := (s.accepting src).ctl
          draws := (s.accepting src).draws
          bus := .memWrite (s.sp - 2) (loByte s.pc) :: .memWrite (s.sp - 1) (hiByte s.pc) :: .idleAck :: s.bus } := by
  have hu := h.accepting src
  rw [State.enterRestart, State.busIdle_quiet hu, State.push16_quiet (hu.withBus _)]
  rw [State.accepting_state]
  rfl

/-- `call` (R155): pushed and branched. -/
theorem State.callTo_spec (s : State) (addr : Word) :
    ∃ u : State, OutsideOnly s u ∧ s.callTo addr = { u with sp := s.sp - 2, pc := addr } := by
  obtain ⟨t, ht, hp⟩ := OutsideOnly.push16 s s.pc
  exact ⟨t, ht, by rw [State.callTo, hp]⟩

/-- Return (R164, R320): two reads, SP higher by 2, `pc` from the two bytes; nothing else of the CPU changes. -/
theorem State.popPc_spec (s : State) :
    ∃ u : State, OutsideOnly s u ∧ s.popPc = { u with sp := s.sp + 2, pc := s.pop16.1 } := by
  obtain ⟨t, ht, hp⟩ := OutsideOnly.pop16 s
  exact ⟨t, ht, by rw [State.popPc, hp]⟩

/-- DAD (R206): two BUS IDLE cycles, HL and CY. -/
theorem State.dad_spec (s : State) (v : Word) :
    ∃ u : State, OutsideOnly s u ∧
      s.dad v = { u with
        regs := { s.regs with h := hiByte (s.hl + v), l := loByte (s.hl + v) }
        flags := { s.flags with cy := decide (s.hl.toNat + v.toNat > 65535) } } := by
  have ho := (OutsideOnly.busIdle s .idleDad (fun _ => rfl) fun _ => rfl).trans (OutsideOnly.busIdle _ .idleDad (fun _ => rfl)
    fun _ => rfl)
  refine ⟨_, ho, ?_⟩
  rw [← ho.regs, ← ho.flags]
  rfl

/-- DAD where the outside keeps still. -/
theorem State.dad_quiet {s : State} (h : s.Undisturbed) (v : Word) :
    s.dad v = { s with
      regs := { s.regs with h := hiByte (s.hl + v), l := loByte (s.hl + v) }
      flags := { s.flags with cy := decide (s.hl.toNat + v.toNat > 65535) }
      bus := .idleDad :: .idleDad :: s.bus } := by
  rw [State.dad, State.busIdle_quiet h, State.busIdle_quiet (h.withBus _)]
  rfl

end Sys2Proof.Machine
end

