-- ==== Sys2Proof/Laws/Access.lean ====
section
/-! SUPPORT. Machine cycles, pushes and the step where the outside keeps still, in the terms of Safety.lean. -/

namespace Sys2Proof.Machine

theorem SameMemory.of_mem {s t : State} (h : t.mem = s.mem) : SameMemory s t := fun x => by simp only [State.peek, h]

@[simp] theorem State.afterRead_regs (s : State) (a : Word) : (s.afterRead a).regs = s.regs := by simp [State.afterRead]
@[simp] theorem State.afterRead_flags (s : State) (a : Word) : (s.afterRead a).flags = s.flags := by
  simp [State.afterRead]
@[simp] theorem State.afterRead_sp (s : State) (a : Word) : (s.afterRead a).sp = s.sp := by simp [State.afterRead]
@[simp] theorem State.afterRead_pc (s : State) (a : Word) : (s.afterRead a).pc = s.pc := by simp [State.afterRead]
@[simp] theorem State.afterRead_ctl (s : State) (a : Word) : (s.afterRead a).ctl = s.ctl := by simp [State.afterRead]
@[simp] theorem State.afterRead_mem (s : State) (a : Word) : (s.afterRead a).mem = s.mem := by simp [State.afterRead]
@[simp] theorem State.afterRead_memMap (s : State) (a : Word) : (s.afterRead a).memMap = s.memMap := by
  simp [State.afterRead]

theorem State.Undisturbed.afterRead {s : State} (h : s.Undisturbed) (a : Word) : (s.afterRead a).Undisturbed :=
  (h.readByte a).withBus _

/-- What a MEMORY READ answers (R45). -/
theorem State.memRead_eq {s : State} (h : s.Undisturbed) (a : Word) : s.memRead a = (s.busByte a, s.afterRead a) :=
  State.memRead_quiet h a

/-- A MEMORY READ of RAM or ROM (R45). -/
theorem State.memRead_memory {s : State} (h : s.Undisturbed) {a : Word} {v : Byte}
    (hk : s.kindAt a = .ram ∨ s.kindAt a = .rom) (hv : s.peek a = v) :
    s.memRead a = (v, { s with bus := .memRead a v :: s.bus }) := by
  rw [State.memRead_quiet h, State.readByte_memory s a hk, hv]

/-- An OPCODE FETCH from RAM or ROM (R44). -/
theorem State.opcodeFetch_memory {s : State} (h : s.Undisturbed) {a : Word} {v : Byte}
    (hk : s.kindAt a = .ram ∨ s.kindAt a = .rom) (hv : s.peek a = v) :
    s.opcodeFetch a = (v, { s with bus := .opcodeFetch a v :: s.bus }) := by
  rw [State.opcodeFetch_quiet h, State.readByte_memory s a hk, hv]

/-- Two different addresses written one after the other. -/
theorem StoresTwo.of_mem {s t : State} {a b : Word} {v w : Byte} (hab : a ≠ b)
    (ht : t.mem = ((s.poke a v).poke b w).mem) : StoresTwo s t a v b w := by
  have hp : ∀ x, t.peek x = ((s.poke a v).poke b w).peek x := fun x => by simp only [State.peek, ht]
  refine ⟨fun x h1 h2 => ?_, ⟨fun h => ?_, fun h => ?_⟩, fun h => ?_, fun h => ?_⟩
  · rw [hp, State.peek_poke_other _ _ _ _ h2, State.peek_poke_other _ _ _ _ h1]
  · rw [hp, State.peek_poke_other _ _ _ _ hab, State.peek_poke_ram _ _ _ h]
  · rw [hp, State.peek_poke_other _ _ _ _ hab, State.poke_not_ram _ _ _ h]
  · rw [hp]
    exact State.peek_poke_ram _ _ _ h
  · rw [hp, State.poke_not_ram (s.poke a v) b w h, State.peek_poke_other _ _ _ _ hab.symm]

theorem word_ne_succ (a : Word) : a ≠ a + 1 := by
  bv_omega

/-- The two addresses of a push differ. -/
theorem word_push_addresses_ne (a : Word) : a - 1 ≠ a - 2 := by
  bv_omega

/-- What `pop16` answers (R55). -/
theorem State.pop16_eq {s : State} (h : s.Undisturbed) :
    s.pop16 = (joinBytes s.stackHi s.stackLo, { s.afterPopReads with sp := s.sp + 2 }) := by
  simp only [State.pop16, State.memRead_eq h, State.memRead_eq (h.afterRead _)]
  rfl

/-- Where the outside keeps still a step is the boundary. -/
theorem step_quiet {s : State} (h : s.Undisturbed) : step s = finish s.boundary := by
  simp only [step, State.cpuStep, State.boundarySlot_quiet h, h.2.1, Bool.false_eq_true, if_false]

theorem finish_next {t : State} (h : t.resetting = false) : finish (.next t) = .next t := by
  simp only [finish, h, Bool.false_eq_true, if_false]

end Sys2Proof.Machine
end

