-- ==== Sys2Proof/Laws/Flags.lean ====
section
/-! SUPPORT. What the flag computations answer, in the terms of Safety.lean: proofs cite these and do not unfold `add8`, `sub8`
or `parity8`. -/

namespace Sys2Proof.Machine

/-- R16: P is even parity, counted over the eight bits. -/
theorem parity8_eq : ∀ v : Byte, parity8 v = decide (((List.range 8).filter fun k => v.getLsbD k).length % 2 = 0) := by
  decide

theorem SzpOf.szp (f : Flags) (v : Byte) : SzpOf (f.szp v) v := ⟨rfl, by simp [Flags.szp]; rfl, parity8_eq v⟩

theorem SzpOf.withCy {f : Flags} {v : Byte} (h : SzpOf f v) (c : Bool) : SzpOf { f with cy := c } v := h

theorem SzpOf.withAc {f : Flags} {v : Byte} (h : SzpOf f v) (c : Bool) : SzpOf { f with ac := c } v := h

theorem IsLogic.ofLogic (f : Flags) (v : Byte) (ac : Bool) : IsLogic v ac (f.ofLogic v ac) :=
  ⟨((SzpOf.szp f v).withAc ac).withCy false, rfl, rfl⟩

/-- R18: the flags of `add8` are those of the sum. -/
theorem IsSum.add8 (f : Flags) (a b : Byte) (cin : Bool) :
    IsSum a b cin (add8 a b cin).r (f.ofSum (add8 a b cin)) := by
  have ha := a.isLt
  have hb := b.isLt
  have hc : cin.toNat ≤ 1 := by cases cin <;> decide
  refine ⟨?_, ?_, SzpOf.szp f _⟩
  · simp only [Machine.add8, Flags.ofSum, BitVec.toNat_ofNat]
    by_cases h : a.toNat + b.toNat + cin.toNat > 255 <;> simp [h] <;> omega
  · simp only [Machine.add8, Flags.ofSum]

/-- R19: the result of `sub8` as a number. -/
theorem sub8_r_toNat (a b : Byte) (bin : Bool) :
    (sub8 a b bin).r.toNat = (a.toNat + 512 - b.toNat - bin.toNat) % 256 := by
  have ha := a.isLt
  have hb := b.isLt
  have hc : bin.toNat ≤ 1 := by cases bin <;> decide
  simp only [sub8, BitVec.toNat_ofInt]
  omega

/-- The low half of a complemented byte. -/
theorem not_low_half (b : Byte) : (~~~b).toNat % 16 = 15 - b.toNat % 16 := by
  have := b.isLt
  simp only [BitVec.toNat_not]
  omega

/-- R19: the flags of `sub8` are those of the difference. -/
theorem IsDifference.sub8 (f : Flags) (a b : Byte) (bin : Bool) :
    IsDifference a b bin (sub8 a b bin).r (f.ofSum (sub8 a b bin)) := by
  have ha := a.isLt
  have hb := b.isLt
  have hc : bin.toNat ≤ 1 := by cases bin <;> decide
  refine ⟨?_, ?_, SzpOf.szp f _⟩
  · rw [sub8_r_toNat]
    simp only [Machine.sub8, Flags.ofSum]
    by_cases h : a.toNat < b.toNat + bin.toNat <;> simp [h] <;> omega
  · simp only [Machine.sub8, Flags.ofSum, not_low_half]
    congr 1
    apply propext
    omega

end Sys2Proof.Machine
end

