-- ==== Sys2Proof/Laws/PerInstr.lean ====
section
/-! SUPPORT. One lemma per constructor of `Instr`: the length that the first byte of an instruction announces (R75) is the
number of bytes its encoding has. -/

namespace Sys2Proof.Laws

/-- R75: the first byte announces as many bytes as the instruction has. -/
def EncodedLength.Statement (i : Instr) : Prop :=
  i.wellFormed = true → instrLength (opcodeOf i) = some (encode i).length

theorem EncodedLength.movRR (dst : Reg) (src : Reg) : EncodedLength.Statement (.movRR dst src) :=
  fun _ => by cases dst <;> cases src <;> rfl
theorem EncodedLength.movMR (src : Reg) : EncodedLength.Statement (.movMR src) := fun _ => by cases src <;> rfl
theorem EncodedLength.movRM (dst : Reg) : EncodedLength.Statement (.movRM dst) := fun _ => by cases dst <;> rfl
theorem EncodedLength.mviR (dst : Reg) (data : Byte) : EncodedLength.Statement (.mviR dst data) := fun _ => by
  show instrLength (opcodeByte 0b00#2 dst.code 0b110#3) = some 2
  cases dst <;> decide
theorem EncodedLength.mviM (data : Byte) : EncodedLength.Statement (.mviM data) := fun _ => by
  show instrLength 0b00110110#8 = some 2
  decide
theorem EncodedLength.lxiB (data : Word) : EncodedLength.Statement (.lxiB data) := fun _ => by
  show instrLength 0b00000001#8 = some 3
  decide
theorem EncodedLength.lxiD (data : Word) : EncodedLength.Statement (.lxiD data) := fun _ => by
  show instrLength 0b00010001#8 = some 3
  decide
theorem EncodedLength.lxiH (data : Word) : EncodedLength.Statement (.lxiH data) := fun _ => by
  show instrLength 0b00100001#8 = some 3
  decide
theorem EncodedLength.staxB : EncodedLength.Statement .staxB := fun _ => rfl
theorem EncodedLength.staxD : EncodedLength.Statement .staxD := fun _ => rfl
theorem EncodedLength.ldaxB : EncodedLength.Statement .ldaxB := fun _ => rfl
theorem EncodedLength.ldaxD : EncodedLength.Statement .ldaxD := fun _ => rfl
theorem EncodedLength.sta (addr : Word) : EncodedLength.Statement (.sta addr) := fun _ => by
  show instrLength 0b00110010#8 = some 3
  decide
theorem EncodedLength.lda (addr : Word) : EncodedLength.Statement (.lda addr) := fun _ => by
  show instrLength 0b00111010#8 = some 3
  decide
theorem EncodedLength.shld (addr : Word) : EncodedLength.Statement (.shld addr) := fun _ => by
  show instrLength 0b00100010#8 = some 3
  decide
theorem EncodedLength.lhld (addr : Word) : EncodedLength.Statement (.lhld addr) := fun _ => by
  show instrLength 0b00101010#8 = some 3
  decide
theorem EncodedLength.xchg : EncodedLength.Statement .xchg := fun _ => rfl
theorem EncodedLength.pushB : EncodedLength.Statement .pushB := fun _ => rfl
theorem EncodedLength.pushD : EncodedLength.Statement .pushD := fun _ => rfl
theorem EncodedLength.pushH : EncodedLength.Statement .pushH := fun _ => rfl
theorem EncodedLength.pushPsw : EncodedLength.Statement .pushPsw := fun _ => rfl
theorem EncodedLength.popB : EncodedLength.Statement .popB := fun _ => rfl
theorem EncodedLength.popD : EncodedLength.Statement .popD := fun _ => rfl
theorem EncodedLength.popH : EncodedLength.Statement .popH := fun _ => rfl
theorem EncodedLength.popPsw : EncodedLength.Statement .popPsw := fun _ => rfl
theorem EncodedLength.xthl : EncodedLength.Statement .xthl := fun _ => rfl
theorem EncodedLength.sphl : EncodedLength.Statement .sphl := fun _ => rfl
theorem EncodedLength.lxiSp (data : Word) : EncodedLength.Statement (.lxiSp data) := fun _ => by
  show instrLength 0b00110001#8 = some 3
  decide
theorem EncodedLength.inxSp : EncodedLength.Statement .inxSp := fun _ => rfl
theorem EncodedLength.dcxSp : EncodedLength.Statement .dcxSp := fun _ => rfl
theorem EncodedLength.jmp (addr : Word) : EncodedLength.Statement (.jmp addr) := fun _ => by
  show instrLength 0b11000011#8 = some 3
  decide
theorem EncodedLength.jc (addr : Word) : EncodedLength.Statement (.jc addr) := fun _ => by
  show instrLength 0b11011010#8 = some 3
  decide
theorem EncodedLength.jnc (addr : Word) : EncodedLength.Statement (.jnc addr) := fun _ => by
  show instrLength 0b11010010#8 = some 3
  decide
theorem EncodedLength.jz (addr : Word) : EncodedLength.Statement (.jz addr) := fun _ => by
  show instrLength 0b11001010#8 = some 3
  decide
theorem EncodedLength.jnz (addr : Word) : EncodedLength.Statement (.jnz addr) := fun _ => by
  show instrLength 0b11000010#8 = some 3
  decide
theorem EncodedLength.jp (addr : Word) : EncodedLength.Statement (.jp addr) := fun _ => by
  show instrLength 0b11110010#8 = some 3
  decide
theorem EncodedLength.jm (addr : Word) : EncodedLength.Statement (.jm addr) := fun _ => by
  show instrLength 0b11111010#8 = some 3
  decide
theorem EncodedLength.jpe (addr : Word) : EncodedLength.Statement (.jpe addr) := fun _ => by
  show instrLength 0b11101010#8 = some 3
  decide
theorem EncodedLength.jpo (addr : Word) : EncodedLength.Statement (.jpo addr) := fun _ => by
  show instrLength 0b11100010#8 = some 3
  decide
theorem EncodedLength.pchl : EncodedLength.Statement .pchl := fun _ => rfl
theorem EncodedLength.call (addr : Word) : EncodedLength.Statement (.call addr) := fun _ => by
  show instrLength 0b11001101#8 = some 3
  decide
theorem EncodedLength.cc (addr : Word) : EncodedLength.Statement (.cc addr) := fun _ => by
  show instrLength 0b11011100#8 = some 3
  decide
theorem EncodedLength.cnc (addr : Word) : EncodedLength.Statement (.cnc addr) := fun _ => by
  show instrLength 0b11010100#8 = some 3
  decide
theorem EncodedLength.cz (addr : Word) : EncodedLength.Statement (.cz addr) := fun _ => by
  show instrLength 0b11001100#8 = some 3
  decide
theorem EncodedLength.cnz (addr : Word) : EncodedLength.Statement (.cnz addr) := fun _ => by
  show instrLength 0b11000100#8 = some 3
  decide
theorem EncodedLength.cp (addr : Word) : EncodedLength.Statement (.cp addr) := fun _ => by
  show instrLength 0b11110100#8 = some 3
  decide
theorem EncodedLength.cm (addr : Word) : EncodedLength.Statement (.cm addr) := fun _ => by
  show instrLength 0b11111100#8 = some 3
  decide
theorem EncodedLength.cpe (addr : Word) : EncodedLength.Statement (.cpe addr) := fun _ => by
  show instrLength 0b11101100#8 = some 3
  decide
theorem EncodedLength.cpo (addr : Word) : EncodedLength.Statement (.cpo addr) := fun _ => by
  show instrLength 0b11100100#8 = some 3
  decide
theorem EncodedLength.ret : EncodedLength.Statement .ret := fun _ => rfl
theorem EncodedLength.rc : EncodedLength.Statement .rc := fun _ => rfl
theorem EncodedLength.rnc : EncodedLength.Statement .rnc := fun _ => rfl
theorem EncodedLength.rz : EncodedLength.Statement .rz := fun _ => rfl
theorem EncodedLength.rnz : EncodedLength.Statement .rnz := fun _ => rfl
theorem EncodedLength.rp : EncodedLength.Statement .rp := fun _ => rfl
theorem EncodedLength.rm : EncodedLength.Statement .rm := fun _ => rfl
theorem EncodedLength.rpe : EncodedLength.Statement .rpe := fun _ => rfl
theorem EncodedLength.rpo : EncodedLength.Statement .rpo := fun _ => rfl
theorem EncodedLength.rst (n : Nat) : EncodedLength.Statement (.rst n) := by
  intro h
  have hn : n < 8 := by simpa [Instr.wellFormed, restartNumberFits] using h
  show instrLength (opcodeByte 0b11#2 (BitVec.ofNat 3 n) 0b111#3) = some 1
  clear h
  revert n
  decide
theorem EncodedLength.inPort (port : Byte) : EncodedLength.Statement (.inPort port) := fun _ => by
  show instrLength 0b11011011#8 = some 2
  decide
theorem EncodedLength.outPort (port : Byte) : EncodedLength.Statement (.outPort port) := fun _ => by
  show instrLength 0b11010011#8 = some 2
  decide
theorem EncodedLength.inrR (dst : Reg) : EncodedLength.Statement (.inrR dst) := fun _ => by cases dst <;> rfl
theorem EncodedLength.dcrR (dst : Reg) : EncodedLength.Statement (.dcrR dst) := fun _ => by cases dst <;> rfl
theorem EncodedLength.inrM : EncodedLength.Statement .inrM := fun _ => rfl
theorem EncodedLength.dcrM : EncodedLength.Statement .dcrM := fun _ => rfl
theorem EncodedLength.inxB : EncodedLength.Statement .inxB := fun _ => rfl
theorem EncodedLength.inxD : EncodedLength.Statement .inxD := fun _ => rfl
theorem EncodedLength.inxH : EncodedLength.Statement .inxH := fun _ => rfl
theorem EncodedLength.dcxB : EncodedLength.Statement .dcxB := fun _ => rfl
theorem EncodedLength.dcxD : EncodedLength.Statement .dcxD := fun _ => rfl
theorem EncodedLength.dcxH : EncodedLength.Statement .dcxH := fun _ => rfl
theorem EncodedLength.addR (src : Reg) : EncodedLength.Statement (.addR src) := fun _ => by cases src <;> rfl
theorem EncodedLength.adcR (src : Reg) : EncodedLength.Statement (.adcR src) := fun _ => by cases src <;> rfl
theorem EncodedLength.addM : EncodedLength.Statement .addM := fun _ => rfl
theorem EncodedLength.adcM : EncodedLength.Statement .adcM := fun _ => rfl
theorem EncodedLength.adi (data : Byte) : EncodedLength.Statement (.adi data) := fun _ => by
  show instrLength 0b11000110#8 = some 2
  decide
theorem EncodedLength.aci (data : Byte) : EncodedLength.Statement (.aci data) := fun _ => by
  show instrLength 0b11001110#8 = some 2
  decide
theorem EncodedLength.dadB : EncodedLength.Statement .dadB := fun _ => rfl
theorem EncodedLength.dadD : EncodedLength.Statement .dadD := fun _ => rfl
theorem EncodedLength.dadH : EncodedLength.Statement .dadH := fun _ => rfl
theorem EncodedLength.dadSp : EncodedLength.Statement .dadSp := fun _ => rfl
theorem EncodedLength.subR (src : Reg) : EncodedLength.Statement (.subR src) := fun _ => by cases src <;> rfl
theorem EncodedLength.sbbR (src : Reg) : EncodedLength.Statement (.sbbR src) := fun _ => by cases src <;> rfl
theorem EncodedLength.subM : EncodedLength.Statement .subM := fun _ => rfl
theorem EncodedLength.sbbM : EncodedLength.Statement .sbbM := fun _ => rfl
theorem EncodedLength.sui (data : Byte) : EncodedLength.Statement (.sui data) := fun _ => by
  show instrLength 0b11010110#8 = some 2
  decide
theorem EncodedLength.sbi (data : Byte) : EncodedLength.Statement (.sbi data) := fun _ => by
  show instrLength 0b11011110#8 = some 2
  decide
theorem EncodedLength.anaR (src : Reg) : EncodedLength.Statement (.anaR src) := fun _ => by cases src <;> rfl
theorem EncodedLength.xraR (src : Reg) : EncodedLength.Statement (.xraR src) := fun _ => by cases src <;> rfl
theorem EncodedLength.oraR (src : Reg) : EncodedLength.Statement (.oraR src) := fun _ => by cases src <;> rfl
theorem EncodedLength.cmpR (src : Reg) : EncodedLength.Statement (.cmpR src) := fun _ => by cases src <;> rfl
theorem EncodedLength.anaM : EncodedLength.Statement .anaM := fun _ => rfl
theorem EncodedLength.xraM : EncodedLength.Statement .xraM := fun _ => rfl
theorem EncodedLength.oraM : EncodedLength.Statement .oraM := fun _ => rfl
theorem EncodedLength.cmpM : EncodedLength.Statement .cmpM := fun _ => rfl
theorem EncodedLength.ani (data : Byte) : EncodedLength.Statement (.ani data) := fun _ => by
  show instrLength 0b11100110#8 = some 2
  decide
theorem EncodedLength.xri (data : Byte) : EncodedLength.Statement (.xri data) := fun _ => by
  show instrLength 0b11101110#8 = some 2
  decide
theorem EncodedLength.ori (data : Byte) : EncodedLength.Statement (.ori data) := fun _ => by
  show instrLength 0b11110110#8 = some 2
  decide
theorem EncodedLength.cpi (data : Byte) : EncodedLength.Statement (.cpi data) := fun _ => by
  show instrLength 0b11111110#8 = some 2
  decide
theorem EncodedLength.rlc : EncodedLength.Statement .rlc := fun _ => rfl
theorem EncodedLength.rrc : EncodedLength.Statement .rrc := fun _ => rfl
theorem EncodedLength.ral : EncodedLength.Statement .ral := fun _ => rfl
theorem EncodedLength.rar : EncodedLength.Statement .rar := fun _ => rfl
theorem EncodedLength.cma : EncodedLength.Statement .cma := fun _ => rfl
theorem EncodedLength.stc : EncodedLength.Statement .stc := fun _ => rfl
theorem EncodedLength.cmc : EncodedLength.Statement .cmc := fun _ => rfl
theorem EncodedLength.daa : EncodedLength.Statement .daa := fun _ => rfl
theorem EncodedLength.ei : EncodedLength.Statement .ei := fun _ => rfl
theorem EncodedLength.di : EncodedLength.Statement .di := fun _ => rfl
theorem EncodedLength.nop : EncodedLength.Statement .nop := fun _ => rfl
theorem EncodedLength.hlt : EncodedLength.Statement .hlt := fun _ => rfl
theorem EncodedLength.rim : EncodedLength.Statement .rim := fun _ => rfl
theorem EncodedLength.sim : EncodedLength.Statement .sim := fun _ => rfl

end Sys2Proof.Laws
end

