-- ==== Sys2Proof/Laws/Step.lean ====
section
/-! SUPPORT. What a step of the machine can have been, said once: proofs about every step cite these cases and unfold neither
`step` nor the boundary. -/

namespace Sys2Proof.Machine

/-- Moving `pc` past what is fetched, whatever the outside does in the machine cycles: the fetch changes nothing else. -/
theorem State.fetch_spec (s : State) : ∃ (u : State) (n : Word), OutsideOnly s u ∧ s.fetch.2 = { u with pc := n } := by
  have operand (x u : State) (n : Word) (hu : OutsideOnly s u) (hx : x = { u with pc := n }) :
      ∃ (w : State) (m : Word), OutsideOnly s w ∧ x.fetchOperand.2 = { w with pc := m } := by
    subst hx
    have h := OutsideOnly.memRead { u with pc := n } n
    exact ⟨{ (State.memRead { u with pc := n } n).2 with pc := u.pc }, n + 1,
      hu.trans ⟨h.regs, h.flags, h.sp, rfl, h.ctl, h.trapFF, h.r75, h.memory, h.wf, h.hold, h.resetting, h.resets⟩, rfl⟩
  unfold State.fetch
  simp only
  split
  · exact operand s.fetchOpcode.2 _ _ (OutsideOnly.opcodeFetch s s.pc) rfl
  · obtain ⟨u, n, hu, hx⟩ := operand s.fetchOpcode.2 _ _ (OutsideOnly.opcodeFetch s s.pc) rfl
    unfold State.fetchThird
    split
    · refine ⟨u, n + 1, hu, ?_⟩
      simp only [State.skipOperand, hx]
    · exact operand _ u n hu hx
  · exact ⟨_, _, OutsideOnly.opcodeFetch s s.pc, rfl⟩

/-- A step with a next state: RESET IN arrived in the slot before the boundary, or the boundary was taken, and a RESET IN during
it ended the step in the reset state (R352). -/
theorem step_cases {s t : State} (h : step s = .next t) :
    (s.boundarySlot.resetting = true ∧ t = s.boundarySlot.afterReset)
    ∨ (s.boundarySlot.resetting = false ∧ ∃ w, s.boundarySlot.boundary = .next w
        ∧ ((w.resetting = true ∧ t = w.afterReset) ∨ (w.resetting = false ∧ t = w))) := by
  unfold step State.cpuStep at h
  simp only at h
  split at h
  · next hr =>
    cases h
    exact .inl ⟨hr, rfl⟩
  · next hr =>
    refine .inr ⟨by simpa using hr, ?_⟩
    cases hb : s.boundarySlot.boundary with
    | fault f => cases f
    | refused r => simp [hb, finish] at h
    | next w =>
      refine ⟨w, rfl, ?_⟩
      simp only [hb, finish] at h
      split at h <;> cases h
      · next hw => exact .inl ⟨hw, rfl⟩
      · next hw => exact .inr ⟨by simpa using hw, rfl⟩

/-- What a boundary can do (R310): take a restart, accept INTR, stay halted, stay held, or run the instruction fetched. -/
theorem State.boundary_cases {u w : State} (h : u.boundary = .next w) :
    (∃ src, u.recognized = some (.restart src)
        ∧ w = State.enterRestart { u with ctl := { u.ctl with eiInh := false } } src)
    ∨ (u.recognized = some .intr ∧ State.acceptIntr { u with ctl := { u.ctl with eiInh := false } } = .next w)
    ∨ (u.recognized = none ∧ u.ctl.halted = true ∧ w = { u with ctl := { u.ctl with eiInh := false } })
    ∨ (u.recognized = none ∧ u.ctl.halted = false ∧ u.ctl.hldaFF = true ∧ w = u)
    ∨ (u.recognized = none ∧ u.ctl.halted = false ∧ u.ctl.hldaFF = false
        ∧ (((State.fetch { u with ctl := { u.ctl with eiInh := false } }).2.resetting = true
            ∧ w = (State.fetch { u with ctl := { u.ctl with eiInh := false } }).2)
          ∨ ∃ i, decodeOne (State.fetch { u with ctl := { u.ctl with eiInh := false } }).1 = some i
            ∧ exec i (State.fetch { u with ctl := { u.ctl with eiInh := false } }).2 = .next w)) := by
  unfold State.boundary at h
  simp only at h
  split at h
  · next src hs =>
    cases h
    exact .inl ⟨src, hs, rfl⟩
  · next hs => exact .inr (.inl ⟨hs, h⟩)
  · next hs =>
    split at h
    · next hh =>
      cases h
      exact .inr (.inr (.inl ⟨hs, hh, rfl⟩))
    · next hh =>
      split at h
      · next hf =>
        cases h
        exact .inr (.inr (.inr (.inl ⟨hs, by simpa using hh, hf, rfl⟩)))
      · next hf =>
        refine .inr (.inr (.inr (.inr ⟨hs, by simpa using hh, by simpa using hf, ?_⟩)))
        unfold State.runInstr at h
        simp only at h
        split at h
        · next hr =>
          cases h
          exact .inl ⟨hr, rfl⟩
        · split at h
          · next i hi => exact .inr ⟨i, hi, h⟩
          · cases h

/-- What accepting INTR can do (R316, R318): out of the halt state with interrupts disabled and a valid saved status free, the
INTA cycles, and the RST n or CALL supplied; or RESET IN ends it. -/
theorem State.acceptIntr_cases {s w : State} (h : s.acceptIntr = .next w) :
    ∃ (d x : State), d = { s with
        ctl := { s.ctl with halted := false, ie := false, tie := d.ctl.tie }, draws := d.draws }
      ∧ (s.ctl.tieV = false → d.ctl.tie = s.ctl.tie)
      ∧ OutsideOnly d x
      ∧ ((x.resetting = true ∧ w = x)
        ∨ (∃ n, exec (.rst n) x = .next w) ∨ ∃ a, exec (.call a) x = .next w) := by
  unfold State.acceptIntr at h
  simp only at h
  generalize hd : State.disturbTie { s with ctl := { s.ctl with halted := false } } = d at h
  have hs := State.disturbTie_state { s with ctl := { s.ctl with halted := false } }
  rw [hd] at hs
  have ht : s.ctl.tieV = false → d.ctl.tie = s.ctl.tie := fun hv => by
    rw [← hd, State.disturbTie_of_not_valid (s := { s with ctl := { s.ctl with halted := false } }) hv]
  have hu : ({ d with ctl := { d.ctl with ie := false } } : State) = { s with
      ctl := { s.ctl with halted := false, ie := false, tie := d.ctl.tie }, draws := d.draws } := by
    rw [hs]
  have ho := OutsideOnly.intaRead { d with ctl := { d.ctl with ie := false } } .first
  split at h
  · next hr =>
    cases h
    exact ⟨_, _, hu, ht, ho, .inl ⟨hr, rfl⟩⟩
  · unfold State.runInserted at h
    split at h
    · exact ⟨_, _, hu, ht, ho, .inr (.inl ⟨_, h⟩)⟩
    · split at h
      · exact ⟨_, _, hu, ht, (ho.trans (OutsideOnly.intaRead _ _)).trans (OutsideOnly.intaRead _ _), .inr (.inr ⟨_, h⟩)⟩
      · cases h

end Sys2Proof.Machine
end

