-- ==== Sys2Proof/Machine/Timing.lean ====
section
/-! DEFINITION. Time, which is informative (spec 70_reset_and_hazards.md R370 to R375, D21): no rule of the machine depends
on it and State counts none. T states of an instruction (R373) and bus timing as a function of the clock (R374). -/

namespace Sys2Proof.Machine

/-- The condition of a conditional jump, call or return (R20). -/
def conditionOf : Instr → Option Cond
  | .jc _ | .cc _ | .rc => some .c
  | .jnc _ | .cnc _ | .rnc => some .nc
  | .jz _ | .cz _ | .rz => some .z
  | .jnz _ | .cnz _ | .rnz => some .nz
  | .jp _ | .cp _ | .rp => some .p
  | .jm _ | .cm _ | .rm => some .m
  | .jpe _ | .cpe _ | .rpe => some .pe
  | .jpo _ | .cpo _ | .rpo => some .po
  | .movRR _ _ | .movMR _ | .movRM _ | .mviR _ _ | .mviM _ | .lxiB _ | .lxiD _ | .lxiH _ | .staxB | .staxD
  | .ldaxB | .ldaxD | .sta _ | .lda _ | .shld _ | .lhld _ | .xchg | .pushB | .pushD | .pushH | .pushPsw | .popB
  | .popD | .popH | .popPsw | .xthl | .sphl | .lxiSp _ | .inxSp | .dcxSp | .jmp _ | .pchl | .call _ | .ret
  | .rst _ | .inPort _ | .outPort _ | .inrR _ | .dcrR _ | .inrM | .dcrM | .inxB | .inxD | .inxH | .dcxB | .dcxD
  | .dcxH | .addR _ | .adcR _ | .addM | .adcM | .adi _ | .aci _ | .dadB | .dadD | .dadH | .dadSp | .subR _
  | .sbbR _ | .subM | .sbbM | .sui _ | .sbi _ | .anaR _ | .xraR _ | .oraR _ | .cmpR _ | .anaM | .xraM | .oraM
  | .cmpM | .ani _ | .xri _ | .ori _ | .cpi _ | .rlc | .rrc | .ral | .rar | .cma | .stc | .cmc | .daa | .ei | .di
  | .nop | .hlt | .rim | .sim => none

/-- T states of the opcode fetch (R373): four, six, or the five of HLT. -/
def fetchTStates : Instr → Nat
  | .sphl | .pchl | .inxB | .inxD | .inxH | .inxSp | .dcxB | .dcxD | .dcxH | .dcxSp | .pushB | .pushD | .pushH
  | .pushPsw | .rst _ | .call _ | .cc _ | .cnc _ | .cz _ | .cnz _ | .cp _ | .cm _ | .cpe _ | .cpo _ | .rc | .rnc
  | .rz | .rnz | .rp | .rm | .rpe | .rpo => 6
  | .hlt => 5
  | .movRR _ _ | .movMR _ | .movRM _ | .mviR _ _ | .mviM _ | .lxiB _ | .lxiD _ | .lxiH _ | .staxB | .staxD
  | .ldaxB | .ldaxD | .sta _ | .lda _ | .shld _ | .lhld _ | .xchg | .popB | .popD | .popH | .popPsw | .xthl
  | .lxiSp _ | .jmp _ | .jc _ | .jnc _ | .jz _ | .jnz _ | .jp _ | .jm _ | .jpe _ | .jpo _ | .ret | .inPort _
  | .outPort _ | .inrR _ | .dcrR _ | .inrM | .dcrM | .addR _ | .adcR _ | .addM | .adcM | .adi _ | .aci _ | .dadB
  | .dadD | .dadH | .dadSp | .subR _ | .sbbR _ | .subM | .sbbM | .sui _ | .sbi _ | .anaR _ | .xraR _ | .oraR _
  | .cmpR _ | .anaM | .xraM | .oraM | .cmpM | .ani _ | .xri _ | .ori _ | .cpi _ | .rlc | .rrc | .ral | .rar
  | .cma | .stc | .cmc | .daa | .ei | .di | .nop | .rim | .sim => 4

/-- Machine cycles after the opcode fetch, each three T states (R371, R373); `taken` is whether the condition, if there is
one, is true. -/
def laterCycles (i : Instr) (taken : Bool) : Nat :=
  match i with
  | .movMR _ | .movRM _ | .mviR _ _ | .ldaxB | .ldaxD | .staxB | .staxD | .addM | .adcM | .subM | .sbbM | .anaM
  | .xraM | .oraM | .cmpM | .adi _ | .aci _ | .sui _ | .sbi _ | .ani _ | .xri _ | .ori _ | .cpi _ => 1
  | .mviM _ | .inrM | .dcrM | .lxiB _ | .lxiD _ | .lxiH _ | .lxiSp _ | .popB | .popD | .popH | .popPsw | .jmp _
  | .ret | .inPort _ | .outPort _ | .dadB | .dadD | .dadH | .dadSp | .pushB | .pushD | .pushH | .pushPsw
  | .rst _ => 2
  | .lda _ | .sta _ => 3
  | .lhld _ | .shld _ | .xthl | .call _ => 4
  | .jc _ | .jnc _ | .jz _ | .jnz _ | .jp _ | .jm _ | .jpe _ | .jpo _ => if taken then 2 else 1
  | .cc _ | .cnc _ | .cz _ | .cnz _ | .cp _ | .cm _ | .cpe _ | .cpo _ => if taken then 4 else 1
  | .rc | .rnc | .rz | .rnz | .rp | .rm | .rpe | .rpo => if taken then 2 else 0
  | .movRR _ _ | .xchg | .sphl | .inxSp | .dcxSp | .pchl | .inrR _ | .dcrR _ | .inxB | .inxD | .inxH | .dcxB
  | .dcxD | .dcxH | .addR _ | .adcR _ | .subR _ | .sbbR _ | .anaR _ | .xraR _ | .oraR _ | .cmpR _ | .rlc | .rrc
  | .ral | .rar | .cma | .stc | .cmc | .daa | .ei | .di | .nop | .hlt | .rim | .sim => 0

/-- T states of an instruction without WAIT and HOLD states (R373). -/
def tStates (i : Instr) (taken : Bool) : Nat := fetchTStates i + 3 * laterCycles i taken

/-- T states of a hardware restart: BI(6) and two writes (R373). -/
def restartTStates : Nat := 6 + 3 + 3

/-- T states of INTR with RST n, and with CALL, supplied (R373). -/
def intrTStates (suppliesCall : Bool) : Nat := if suppliesCall then 6 + 3 + 3 + 3 + 3 else 6 + 3 + 3

/-- The periods of CLK a variant allows (R370). -/
def legalPeriod (v : Config.Variant) (ns : Nat) : Bool :=
  decide (Config.tCycMin v ≤ ns) && decide (ns ≤ Config.tCycMax v)

/-- The quantities of Table 7 (R374). -/
inductive BusTime where
  | tAL
  | tLA
  | tLL
  | tLCK
  | tLC
  | tAD
  | tRD
  | tRAE
  | tCA
  | tDW
  | tWD
  | tCC
  | tCL
  | tARY
  | tHACK
  | tHABF
  | tHABE
  | tAC
  | t1
  | t2
  | tRV
  | tLDR
deriving DecidableEq, Repr

/-- A row of Table 7: (halves / 2 + N) T + c, with N only where `perWait` holds. -/
structure BusTimeRow where
  halves : Nat
  perWait : Bool
  c8085A : Int
  c8085A2 : Int
  isMax : Bool
deriving DecidableEq, Repr

/-- Table 7 (R374). -/
def BusTime.row : BusTime → BusTimeRow
  | .tAL => { halves := 1, perWait := false, c8085A := -45, c8085A2 := -50, isMax := false }
  | .tLA => { halves := 1, perWait := false, c8085A := -60, c8085A2 := -50, isMax := false }
  | .tLL => { halves := 1, perWait := false, c8085A := -20, c8085A2 := -20, isMax := false }
  | .tLCK => { halves := 1, perWait := false, c8085A := -60, c8085A2 := -50, isMax := false }
  | .tLC => { halves := 1, perWait := false, c8085A := -30, c8085A2 := -40, isMax := false }
  | .tAD => { halves := 5, perWait := true, c8085A := -225, c8085A2 := -150, isMax := true }
  | .tRD => { halves := 3, perWait := true, c8085A := -180, c8085A2 := -150, isMax := true }
  | .tRAE => { halves := 1, perWait := false, c8085A := -10, c8085A2 := -10, isMax := false }
  | .tCA => { halves := 1, perWait := false, c8085A := -40, c8085A2 := -40, isMax := false }
  | .tDW => { halves := 3, perWait := true, c8085A := -60, c8085A2 := -70, isMax := false }
  | .tWD => { halves := 1, perWait := false, c8085A := -60, c8085A2 := -40, isMax := false }
  | .tCC => { halves := 3, perWait := true, c8085A := -80, c8085A2 := -70, isMax := false }
  | .tCL => { halves := 1, perWait := false, c8085A := -110, c8085A2 := -75, isMax := false }
  | .tARY => { halves := 3, perWait := false, c8085A := -260, c8085A2 := -200, isMax := true }
  | .tHACK => { halves := 1, perWait := false, c8085A := -50, c8085A2 := -60, isMax := false }
  | .tHABF => { halves := 1, perWait := false, c8085A := 50, c8085A2 := 50, isMax := true }
  | .tHABE => { halves := 1, perWait := false, c8085A := 50, c8085A2 := 50, isMax := true }
  | .tAC => { halves := 2, perWait := false, c8085A := -50, c8085A2 := -85, isMax := false }
  | .t1 => { halves := 1, perWait := false, c8085A := -80, c8085A2 := -60, isMax := false }
  | .t2 => { halves := 1, perWait := false, c8085A := -40, c8085A2 := -30, isMax := false }
  | .tRV => { halves := 3, perWait := false, c8085A := -80, c8085A2 := -80, isMax := false }
  | .tLDR => { halves := 4, perWait := false, c8085A := -180, c8085A2 := -130, isMax := true }

/-- A bus time in ns at clock period `ns` with `n` WAIT states (R374); half a period is rounded down. -/
def BusTime.ns (q : BusTime) (v : Config.Variant) (ns n : Nat) : Int :=
  let c := match v with
    | .i8085A => q.row.c8085A
    | .i8085A2 => q.row.c8085A2
  ((q.row.halves * ns) / 2 : Nat) + (if q.row.perWait then (n * ns : Nat) else (0 : Nat)) + c

/-- Table 6 (R372), for the quantities of Table 7: the values at 320 ns (8085A) and 200 ns (8085A-2). -/
def BusTime.table6 : BusTime → Int × Int
  | .tAL => (115, 50)
  | .tLA => (100, 50)
  | .tLL => (140, 80)
  | .tLCK => (100, 50)
  | .tLC => (130, 60)
  | .tAD => (575, 350)
  | .tRD => (300, 150)
  | .tRAE => (150, 90)
  | .tCA => (120, 60)
  | .tDW => (420, 230)
  | .tWD => (100, 60)
  | .tCC => (400, 230)
  | .tCL => (50, 25)
  | .tARY => (220, 100)
  | .tHACK => (110, 40)
  | .tHABF => (210, 150)
  | .tHABE => (210, 150)
  | .tAC => (270, 115)
  | .t1 => (80, 40)
  | .t2 => (120, 70)
  | .tRV => (400, 220)
  | .tLDR => (460, 270)

end Sys2Proof.Machine
end

