-- ==== Sys2Proof/Tests/Slice0.lean ====
section
/-! SUPPORT. Tests: words and steps whose outcomes stand in spec/ (the vectors of 95_test_vectors.md and the examples of the
rules), and for each statement with hypotheses a state that meets them. -/

namespace Sys2Proof.Tests

open Sys2Proof.Machine

/-- The seven registers. -/
def r (a b c d e h l : Byte) : Regs := { a := a, b := b, c := c, d := d, e := e, h := h, l := l }

/-- The five flags, as 0 and 1. -/
def f (s z ac p cy : Nat) : Flags := { s := s == 1, z := z == 1, ac := ac == 1, p := p == 1, cy := cy == 1 }

/-- A machine after reset, but for its registers. -/
def cpu (regs : Regs) (flags : Flags) (sp pc : Word) : State :=
  { State.reset with regs := regs, flags := flags, sp := sp, pc := pc }

/-- The start of the boundary vectors of 95_test_vectors.md section 3: pc = 0100H, SP = 2000H, all inputs low. -/
def idle : State :=
  let s := cpu (r 0 0 0 0 0 0 0) (f 0 0 0 0 0) 0x2000 0x0100
  { s with pins := { s.pins with rst65 := some false, rst55 := some false, sid := some false } }

/-- IE, M55, M65, M75, R75, SOD, EIINH, HALTED set. -/
def withBits (s : State) (ie m55 m65 m75 r75 sod eiInh halted : Nat) : State :=
  { s with ctl := { s.ctl with
      ie := ie == 1, m55 := m55 == 1, m65 := m65 == 1, m75 := m75 == 1, r75 := r75 == 1, sod := sod == 1
      eiInh := eiInh == 1, halted := halted == 1 } }

/-- Bytes put into memory from outside. -/
def holding (s : State) (cells : List (Word × Byte)) : State :=
  match cells with
  | [] => s
  | c :: rest => holding (s.load c.1 c.2) rest

/-- A platform whose ports, memory-mapped devices and INTA responder each answer these bytes, and then nothing. -/
def answered (s : State) (vs : List Byte) : State :=
  { s with platform := {
      ports := [⟨0, 256, vs.map some, none⟩]
      devices := [⟨0, 65536, vs.map some, none⟩]
      responder := ⟨vs[0]?, vs[1]?, vs[2]?⟩ } }

/-- The bytes of an instruction put where `pc` points. -/
def loaded (s : State) (a : Word) (bytes : List Byte) : State :=
  match bytes with
  | [] => s
  | v :: rest => loaded (s.load a v) (a + 1) rest

/-- IE, M55, M65, M75, R75, SOD, EIINH, HALTED, as 0 and 1. -/
def bits (s : State) : List Nat :=
  [s.ctl.ie, s.ctl.m55, s.ctl.m65, s.ctl.m75, s.ctl.r75, s.ctl.sod, s.ctl.eiInh, s.ctl.halted].map Bool.toNat

/-- The next state of an answer. -/
def nextOf (x : Result) : Option State :=
  match x with
  | .next t => some t
  | .fault _ => none
  | .refused _ => none

/-- The byte an answer refuses to run as an inserted instruction. -/
def refusedInta (x : Result) : Option Byte :=
  match x with
  | .next _ => none
  | .fault _ => none
  | .refused (.intaNotRestartOrCall op) => some op
  | .refused _ => none

/-- The byte an answer refuses to run as an opcode. -/
def refusedOpcode (x : Result) : Option Byte :=
  match x with
  | .next _ => none
  | .fault _ => none
  | .refused (.undefinedOpcode op) => some op
  | .refused _ => none

/-- The next state of one step. -/
def after (s : State) : Option State := nextOf (step s)

/-- The next state of an instruction's meaning. -/
def ran (i : Instr) (s : State) : Option State := nextOf (exec i s)

/-- The T states of the instruction these bytes are. -/
def tStatesOf (bytes : List Byte) (flags : Flags) : Nat :=
  match decodeOne bytes with
  | some i => tStates i (((conditionOf i).map fun k => k.holds flags).getD true)
  | none => 0

/-- What one step leaves: registers, flags, SP, `pc`, control bits, the machine cycles in order, T states. -/
structure Seen where
  regs : Regs
  flags : Flags
  sp : Word
  pc : Word
  bits : List Nat
  bus : List BusEvent
  tStates : Nat
deriving DecidableEq, Repr

/-- What one step over these bytes leaves. -/
def seen (s : State) (bytes : List Byte) : Option Seen :=
  (after (loaded s s.pc bytes)).map fun t =>
    { regs := t.regs, flags := t.flags, sp := t.sp, pc := t.pc, bits := bits t, bus := t.bus.reverse
      tStates := tStatesOf bytes s.flags }


/-! What an ill-formed term is refused for. -/

/-- R71, R173: AAA has three bits. -/
theorem test_rst_8_is_ill_formed : (Instr.rst 8).wellFormed = false := by decide

/-- R173: n = 0 to 7. -/
theorem test_rst_0_and_7_are_well_formed : (Instr.rst 0).wellFormed = true ∧ (Instr.rst 7).wellFormed = true := by decide

/-! Decoding. -/

/-- R11: the codes of B, C, D, E, H, L, M, A in SSS, from MOV B,r. -/
theorem test_decode_register_codes :
    [0x40, 0x41, 0x42, 0x43, 0x44, 0x45, 0x46, 0x47].map (fun op : Byte => decodeOne [op])
      = [Instr.movRR .b .b, .movRR .b .c, .movRR .b .d, .movRR .b .e, .movRR .b .h, .movRR .b .l, .movRM .b,
          .movRR .b .a].map some := by decide

/-- R80: the ten first bytes that no row of Table 6-1 has. -/
theorem test_decode_undefined :
    [0x08, 0x10, 0x18, 0x28, 0x38, 0xCB, 0xD9, 0xDD, 0xED, 0xFD].all
      (fun op : Byte => decide (decode [op, 0, 0] = .undefinedOpcode op)) = true := by decide

set_option maxRecDepth 8000 in
/-- R77: 246 first bytes have an instruction, and R75 gives 202 of them one byte, 18 two and 26 three. -/
theorem test_decode_counts :
    let lengths := (List.range 256).map fun n => instrLength (BitVec.ofNat 8 n)
    lengths.count (some 1) = 202 ∧ lengths.count (some 2) = 18 ∧ lengths.count (some 3) = 26 ∧ lengths.count none = 10 := by
  decide

/-- Bit 0 of a table word is bit 0 of the first byte: 3EH 42H. -/
theorem test_decode_table_word : decodeTableWord 16 0x423E = some (.mviR .a 0x42) := by decide

/-- The word a table row gives is fetched and run by the very next step. -/
theorem test_with_fetch_word : (after (State.reset.withFetchWord 16 0x423E)).map (fun t => (t.regs.a, t.pc))
    = some (0x42, 0x0002) := by decide

/-- R76, the rows of MOVE, LOAD, AND STORE: the words of Table 6-1 with DDD = 111 (A), SSS = 010 (D), AAA = 101, data 42H or 1234H. -/
theorem test_decode_move_load_and_store :
    decode [0b01111010] = .ok (.movRR .a .d) []
    ∧ decode [0b01110010] = .ok (.movMR .d) []
    ∧ decode [0b01111110] = .ok (.movRM .a) []
    ∧ decode [0b00111110, 0x42] = .ok (.mviR .a 0x42) []
    ∧ decode [0b00110110, 0x42] = .ok (.mviM 0x42) []
    ∧ decode [0b00000001, 0x34, 0x12] = .ok (.lxiB 0x1234) []
    ∧ decode [0b00010001, 0x34, 0x12] = .ok (.lxiD 0x1234) []
    ∧ decode [0b00100001, 0x34, 0x12] = .ok (.lxiH 0x1234) []
    ∧ decode [0b00000010] = .ok .staxB []
    ∧ decode [0b00010010] = .ok .staxD []
    ∧ decode [0b00001010] = .ok .ldaxB []
    ∧ decode [0b00011010] = .ok .ldaxD []
    ∧ decode [0b00110010, 0x34, 0x12] = .ok (.sta 0x1234) []
    ∧ decode [0b00111010, 0x34, 0x12] = .ok (.lda 0x1234) []
    ∧ decode [0b00100010, 0x34, 0x12] = .ok (.shld 0x1234) []
    ∧ decode [0b00101010, 0x34, 0x12] = .ok (.lhld 0x1234) []
    ∧ decode [0b11101011] = .ok .xchg [] := by decide
/-- R76, the rows of STACK OPS: the words of Table 6-1 with DDD = 111 (A), SSS = 010 (D), AAA = 101, data 42H or 1234H. -/
theorem test_decode_stack_ops :
    decode [0b11000101] = .ok .pushB []
    ∧ decode [0b11010101] = .ok .pushD []
    ∧ decode [0b11100101] = .ok .pushH []
    ∧ decode [0b11110101] = .ok .pushPsw []
    ∧ decode [0b11000001] = .ok .popB []
    ∧ decode [0b11010001] = .ok .popD []
    ∧ decode [0b11100001] = .ok .popH []
    ∧ decode [0b11110001] = .ok .popPsw []
    ∧ decode [0b11100011] = .ok .xthl []
    ∧ decode [0b11111001] = .ok .sphl []
    ∧ decode [0b00110001, 0x34, 0x12] = .ok (.lxiSp 0x1234) []
    ∧ decode [0b00110011] = .ok .inxSp []
    ∧ decode [0b00111011] = .ok .dcxSp [] := by decide
/-- R76, the rows of JUMP: the words of Table 6-1 with DDD = 111 (A), SSS = 010 (D), AAA = 101, data 42H or 1234H. -/
theorem test_decode_jump :
    decode [0b11000011, 0x34, 0x12] = .ok (.jmp 0x1234) []
    ∧ decode [0b11011010, 0x34, 0x12] = .ok (.jc 0x1234) []
    ∧ decode [0b11010010, 0x34, 0x12] = .ok (.jnc 0x1234) []
    ∧ decode [0b11001010, 0x34, 0x12] = .ok (.jz 0x1234) []
    ∧ decode [0b11000010, 0x34, 0x12] = .ok (.jnz 0x1234) []
    ∧ decode [0b11110010, 0x34, 0x12] = .ok (.jp 0x1234) []
    ∧ decode [0b11111010, 0x34, 0x12] = .ok (.jm 0x1234) []
    ∧ decode [0b11101010, 0x34, 0x12] = .ok (.jpe 0x1234) []
    ∧ decode [0b11100010, 0x34, 0x12] = .ok (.jpo 0x1234) []
    ∧ decode [0b11101001] = .ok .pchl [] := by decide
/-- R76, the rows of CALL: the words of Table 6-1 with DDD = 111 (A), SSS = 010 (D), AAA = 101, data 42H or 1234H. -/
theorem test_decode_call :
    decode [0b11001101, 0x34, 0x12] = .ok (.call 0x1234) []
    ∧ decode [0b11011100, 0x34, 0x12] = .ok (.cc 0x1234) []
    ∧ decode [0b11010100, 0x34, 0x12] = .ok (.cnc 0x1234) []
    ∧ decode [0b11001100, 0x34, 0x12] = .ok (.cz 0x1234) []
    ∧ decode [0b11000100, 0x34, 0x12] = .ok (.cnz 0x1234) []
    ∧ decode [0b11110100, 0x34, 0x12] = .ok (.cp 0x1234) []
    ∧ decode [0b11111100, 0x34, 0x12] = .ok (.cm 0x1234) []
    ∧ decode [0b11101100, 0x34, 0x12] = .ok (.cpe 0x1234) []
    ∧ decode [0b11100100, 0x34, 0x12] = .ok (.cpo 0x1234) [] := by decide
/-- R76, the rows of RETURN: the words of Table 6-1 with DDD = 111 (A), SSS = 010 (D), AAA = 101, data 42H or 1234H. -/
theorem test_decode_return :
    decode [0b11001001] = .ok .ret []
    ∧ decode [0b11011000] = .ok .rc []
    ∧ decode [0b11010000] = .ok .rnc []
    ∧ decode [0b11001000] = .ok .rz []
    ∧ decode [0b11000000] = .ok .rnz []
    ∧ decode [0b11110000] = .ok .rp []
    ∧ decode [0b11111000] = .ok .rm []
    ∧ decode [0b11101000] = .ok .rpe []
    ∧ decode [0b11100000] = .ok .rpo [] := by decide
/-- R76, the rows of RESTART: the words of Table 6-1 with DDD = 111 (A), SSS = 010 (D), AAA = 101, data 42H or 1234H. -/
theorem test_decode_restart :
    decode [0b11101111] = .ok (.rst 5) [] := by decide
/-- R76, the rows of INPUT/OUTPUT: the words of Table 6-1 with DDD = 111 (A), SSS = 010 (D), AAA = 101, data 42H or 1234H. -/
theorem test_decode_input_output :
    decode [0b11011011, 0x42] = .ok (.inPort 0x42) []
    ∧ decode [0b11010011, 0x42] = .ok (.outPort 0x42) [] := by decide
/-- R76, the rows of INCREMENT AND DECREMENT: the words of Table 6-1 with DDD = 111 (A), SSS = 010 (D), AAA = 101, data 42H or 1234H. -/
theorem test_decode_increment_and_decrement :
    decode [0b00111100] = .ok (.inrR .a) []
    ∧ decode [0b00111101] = .ok (.dcrR .a) []
    ∧ decode [0b00110100] = .ok .inrM []
    ∧ decode [0b00110101] = .ok .dcrM []
    ∧ decode [0b00000011] = .ok .inxB []
    ∧ decode [0b00010011] = .ok .inxD []
    ∧ decode [0b00100011] = .ok .inxH []
    ∧ decode [0b00001011] = .ok .dcxB []
    ∧ decode [0b00011011] = .ok .dcxD []
    ∧ decode [0b00101011] = .ok .dcxH [] := by decide
/-- R76, the rows of ADD: the words of Table 6-1 with DDD = 111 (A), SSS = 010 (D), AAA = 101, data 42H or 1234H. -/
theorem test_decode_add :
    decode [0b10000010] = .ok (.addR .d) []
    ∧ decode [0b10001010] = .ok (.adcR .d) []
    ∧ decode [0b10000110] = .ok .addM []
    ∧ decode [0b10001110] = .ok .adcM []
    ∧ decode [0b11000110, 0x42] = .ok (.adi 0x42) []
    ∧ decode [0b11001110, 0x42] = .ok (.aci 0x42) []
    ∧ decode [0b00001001] = .ok .dadB []
    ∧ decode [0b00011001] = .ok .dadD []
    ∧ decode [0b00101001] = .ok .dadH []
    ∧ decode [0b00111001] = .ok .dadSp [] := by decide
/-- R76, the rows of SUBTRACT: the words of Table 6-1 with DDD = 111 (A), SSS = 010 (D), AAA = 101, data 42H or 1234H. -/
theorem test_decode_subtract :
    decode [0b10010010] = .ok (.subR .d) []
    ∧ decode [0b10011010] = .ok (.sbbR .d) []
    ∧ decode [0b10010110] = .ok .subM []
    ∧ decode [0b10011110] = .ok .sbbM []
    ∧ decode [0b11010110, 0x42] = .ok (.sui 0x42) []
    ∧ decode [0b11011110, 0x42] = .ok (.sbi 0x42) [] := by decide
/-- R76, the rows of LOGICAL: the words of Table 6-1 with DDD = 111 (A), SSS = 010 (D), AAA = 101, data 42H or 1234H. -/
theorem test_decode_logical :
    decode [0b10100010] = .ok (.anaR .d) []
    ∧ decode [0b10101010] = .ok (.xraR .d) []
    ∧ decode [0b10110010] = .ok (.oraR .d) []
    ∧ decode [0b10111010] = .ok (.cmpR .d) []
    ∧ decode [0b10100110] = .ok .anaM []
    ∧ decode [0b10101110] = .ok .xraM []
    ∧ decode [0b10110110] = .ok .oraM []
    ∧ decode [0b10111110] = .ok .cmpM []
    ∧ decode [0b11100110, 0x42] = .ok (.ani 0x42) []
    ∧ decode [0b11101110, 0x42] = .ok (.xri 0x42) []
    ∧ decode [0b11110110, 0x42] = .ok (.ori 0x42) []
    ∧ decode [0b11111110, 0x42] = .ok (.cpi 0x42) [] := by decide
/-- R76, the rows of ROTATE: the words of Table 6-1 with DDD = 111 (A), SSS = 010 (D), AAA = 101, data 42H or 1234H. -/
theorem test_decode_rotate :
    decode [0b00000111] = .ok .rlc []
    ∧ decode [0b00001111] = .ok .rrc []
    ∧ decode [0b00010111] = .ok .ral []
    ∧ decode [0b00011111] = .ok .rar [] := by decide
/-- R76, the rows of SPECIALS: the words of Table 6-1 with DDD = 111 (A), SSS = 010 (D), AAA = 101, data 42H or 1234H. -/
theorem test_decode_specials :
    decode [0b00101111] = .ok .cma []
    ∧ decode [0b00110111] = .ok .stc []
    ∧ decode [0b00111111] = .ok .cmc []
    ∧ decode [0b00100111] = .ok .daa [] := by decide
/-- R76, the rows of CONTROL: the words of Table 6-1 with DDD = 111 (A), SSS = 010 (D), AAA = 101, data 42H or 1234H. -/
theorem test_decode_control :
    decode [0b11111011] = .ok .ei []
    ∧ decode [0b11110011] = .ok .di []
    ∧ decode [0b00000000] = .ok .nop []
    ∧ decode [0b01110110] = .ok .hlt [] := by decide
/-- R76, the rows of NEW 8085A INSTRUCTIONS: the words of Table 6-1 with DDD = 111 (A), SSS = 010 (D), AAA = 101, data 42H or 1234H. -/
theorem test_decode_new_a_instructions :
    decode [0b00100000] = .ok .rim []
    ∧ decode [0b00110000] = .ok .sim [] := by decide

/-! One step each (95_test_vectors.md section 2 and the examples of the rules). -/

/-- V1 of 95_test_vectors.md. -/
theorem test_V1_movRR : seen (cpu (r 0x00 0x5A 0x00 0x00 0x00 0x00 0x00) (f 0 0 0 0 0) 0x0000 0x0100) [0x78]
    = some ⟨r 0x5A 0x5A 0x00 0x00 0x00 0x00 0x00, f 0 0 0 0 0, 0x0000, 0x0101, [0, 1, 1, 1, 0, 0, 0, 0],
      [.opcodeFetch 0x0100 0x78], 4⟩ := by decide
/-- V2 of 95_test_vectors.md. -/
theorem test_V2_movRR : seen (cpu (r 0x00 0x00 0x00 0x00 0x00 0x00 0x33) (f 0 0 0 0 0) 0x0000 0x0100) [0x6D]
    = some ⟨r 0x00 0x00 0x00 0x00 0x00 0x00 0x33, f 0 0 0 0 0, 0x0000, 0x0101, [0, 1, 1, 1, 0, 0, 0, 0],
      [.opcodeFetch 0x0100 0x6D], 4⟩ := by decide
/-- V3 of 95_test_vectors.md. -/
theorem test_V3_movMR : seen (cpu (r 0x9C 0x00 0x00 0x00 0x00 0x20 0x50) (f 0 0 0 0 0) 0x0000 0x0100) [0x77]
    = some ⟨r 0x9C 0x00 0x00 0x00 0x00 0x20 0x50, f 0 0 0 0 0, 0x0000, 0x0101, [0, 1, 1, 1, 0, 0, 0, 0],
      [.opcodeFetch 0x0100 0x77, .memWrite 0x2050 0x9C], 7⟩ := by decide
/-- V4 of 95_test_vectors.md. -/
theorem test_V4_movMR : seen (cpu (r 0x00 0x00 0x00 0x00 0x00 0x20 0x50) (f 0 0 0 0 0) 0x0000 0x0100) [0x74]
    = some ⟨r 0x00 0x00 0x00 0x00 0x00 0x20 0x50, f 0 0 0 0 0, 0x0000, 0x0101, [0, 1, 1, 1, 0, 0, 0, 0],
      [.opcodeFetch 0x0100 0x74, .memWrite 0x2050 0x20], 7⟩ := by decide
/-- V5 of 95_test_vectors.md. -/
theorem test_V5_movRM : seen (holding (cpu (r 0x00 0x00 0x00 0x00 0x00 0xFF 0xFF) (f 0 0 0 0 0) 0x0000 0x0100) [(0xFFFF, 0x12)]) [0x5E]
    = some ⟨r 0x00 0x00 0x00 0x00 0x12 0xFF 0xFF, f 0 0 0 0 0, 0x0000, 0x0101, [0, 1, 1, 1, 0, 0, 0, 0],
      [.opcodeFetch 0x0100 0x5E, .memRead 0xFFFF 0x12], 7⟩ := by decide
/-- V6 of 95_test_vectors.md. -/
theorem test_V6_movRM : seen (holding (cpu (r 0x00 0x00 0x00 0x00 0x00 0x20 0x50) (f 0 0 0 0 0) 0x0000 0x0100) [(0x2050, 0x77)]) [0x6E]
    = some ⟨r 0x00 0x00 0x00 0x00 0x00 0x20 0x77, f 0 0 0 0 0, 0x0000, 0x0101, [0, 1, 1, 1, 0, 0, 0, 0],
      [.opcodeFetch 0x0100 0x6E, .memRead 0x2050 0x77], 7⟩ := by decide
/-- V7 of 95_test_vectors.md. -/
theorem test_V7_mviR : seen (cpu (r 0x00 0x00 0x00 0x00 0x00 0x00 0x00) (f 0 0 0 0 0) 0x0000 0x0100) [0x0E, 0xFF]
    = some ⟨r 0x00 0x00 0xFF 0x00 0x00 0x00 0x00, f 0 0 0 0 0, 0x0000, 0x0102, [0, 1, 1, 1, 0, 0, 0, 0],
      [.opcodeFetch 0x0100 0x0E, .memRead 0x0101 0xFF], 7⟩ := by decide
/-- V8 of 95_test_vectors.md. -/
theorem test_V8_mviM : seen (cpu (r 0x00 0x00 0x00 0x00 0x00 0x30 0x00) (f 0 0 0 0 0) 0x0000 0x0100) [0x36, 0xA5]
    = some ⟨r 0x00 0x00 0x00 0x00 0x00 0x30 0x00, f 0 0 0 0 0, 0x0000, 0x0102, [0, 1, 1, 1, 0, 0, 0, 0],
      [.opcodeFetch 0x0100 0x36, .memRead 0x0101 0xA5, .memWrite 0x3000 0xA5], 10⟩ := by decide
/-- V9 of 95_test_vectors.md. -/
theorem test_V9_lxiB : seen (cpu (r 0x00 0x00 0x00 0x00 0x00 0x00 0x00) (f 0 0 0 0 0) 0x0000 0x0100) [0x01, 0x34, 0x12]
    = some ⟨r 0x00 0x12 0x34 0x00 0x00 0x00 0x00, f 0 0 0 0 0, 0x0000, 0x0103, [0, 1, 1, 1, 0, 0, 0, 0],
      [.opcodeFetch 0x0100 0x01, .memRead 0x0101 0x34, .memRead 0x0102 0x12], 10⟩ := by decide
/-- The example of R106. -/
theorem test_E106_lxiD : seen (cpu (r 0x00 0x00 0x00 0x00 0x00 0x00 0x00) (f 0 0 0 0 0) 0x0000 0x0100) [0x11, 0x00, 0x80]
    = some ⟨r 0x00 0x00 0x00 0x80 0x00 0x00 0x00, f 0 0 0 0 0, 0x0000, 0x0103, [0, 1, 1, 1, 0, 0, 0, 0],
      [.opcodeFetch 0x0100 0x11, .memRead 0x0101 0x00, .memRead 0x0102 0x80], 10⟩ := by decide
/-- V10 of 95_test_vectors.md. -/
theorem test_V10_lxiH : seen (cpu (r 0x00 0x00 0x00 0x00 0x00 0x00 0x00) (f 0 0 0 0 0) 0x0000 0xFFFE) [0x21, 0xCD, 0xAB]
    = some ⟨r 0x00 0x00 0x00 0x00 0x00 0xAB 0xCD, f 0 0 0 0 0, 0x0000, 0x0001, [0, 1, 1, 1, 0, 0, 0, 0],
      [.opcodeFetch 0xFFFE 0x21, .memRead 0xFFFF 0xCD, .memRead 0x0000 0xAB], 10⟩ := by decide
/-- V11 of 95_test_vectors.md. -/
theorem test_V11_staxB : seen (cpu (r 0x3C 0x40 0x00 0x00 0x00 0x00 0x00) (f 0 0 0 0 0) 0x0000 0x0100) [0x02]
    = some ⟨r 0x3C 0x40 0x00 0x00 0x00 0x00 0x00, f 0 0 0 0 0, 0x0000, 0x0101, [0, 1, 1, 1, 0, 0, 0, 0],
      [.opcodeFetch 0x0100 0x02, .memWrite 0x4000 0x3C], 7⟩ := by decide
/-- The example of R109. -/
theorem test_E109_staxD : seen (cpu (r 0xA5 0x00 0x00 0x40 0x01 0x00 0x00) (f 0 0 0 0 0) 0x0000 0x0100) [0x12]
    = some ⟨r 0xA5 0x00 0x00 0x40 0x01 0x00 0x00, f 0 0 0 0 0, 0x0000, 0x0101, [0, 1, 1, 1, 0, 0, 0, 0],
      [.opcodeFetch 0x0100 0x12, .memWrite 0x4001 0xA5], 7⟩ := by decide
/-- The example of R110. -/
theorem test_E110_ldaxB : seen (holding (cpu (r 0x00 0x40 0x00 0x00 0x00 0x00 0x00) (f 0 0 0 0 0) 0x0000 0x0100) [(0x4000, 0x5A)]) [0x0A]
    = some ⟨r 0x5A 0x40 0x00 0x00 0x00 0x00 0x00, f 0 0 0 0 0, 0x0000, 0x0101, [0, 1, 1, 1, 0, 0, 0, 0],
      [.opcodeFetch 0x0100 0x0A, .memRead 0x4000 0x5A], 7⟩ := by decide
/-- V12 of 95_test_vectors.md. -/
theorem test_V12_ldaxD : seen (holding (cpu (r 0x00 0x00 0x00 0x40 0x01 0x00 0x00) (f 0 0 0 0 0) 0x0000 0x0100) [(0x4001, 0x81)]) [0x1A]
    = some ⟨r 0x81 0x00 0x00 0x40 0x01 0x00 0x00, f 0 0 0 0 0, 0x0000, 0x0101, [0, 1, 1, 1, 0, 0, 0, 0],
      [.opcodeFetch 0x0100 0x1A, .memRead 0x4001 0x81], 7⟩ := by decide
/-- V13 of 95_test_vectors.md. -/
theorem test_V13_sta : seen (cpu (r 0x42 0x00 0x00 0x00 0x00 0x00 0x00) (f 0 0 0 0 0) 0x0000 0x0100) [0x32, 0xFF, 0xFF]
    = some ⟨r 0x42 0x00 0x00 0x00 0x00 0x00 0x00, f 0 0 0 0 0, 0x0000, 0x0103, [0, 1, 1, 1, 0, 0, 0, 0],
      [.opcodeFetch 0x0100 0x32, .memRead 0x0101 0xFF, .memRead 0x0102 0xFF, .memWrite 0xFFFF 0x42], 13⟩ := by decide
/-- V14 of 95_test_vectors.md. -/
theorem test_V14_lda : seen (holding (cpu (r 0x00 0x00 0x00 0x00 0x00 0x00 0x00) (f 0 0 0 0 0) 0x0000 0x0100) [(0x2000, 0xEE)]) [0x3A, 0x00, 0x20]
    = some ⟨r 0xEE 0x00 0x00 0x00 0x00 0x00 0x00, f 0 0 0 0 0, 0x0000, 0x0103, [0, 1, 1, 1, 0, 0, 0, 0],
      [.opcodeFetch 0x0100 0x3A, .memRead 0x0101 0x00, .memRead 0x0102 0x20, .memRead 0x2000 0xEE], 13⟩ := by decide
/-- V15 of 95_test_vectors.md. -/
theorem test_V15_shld : seen (cpu (r 0x00 0x00 0x00 0x00 0x00 0xAE 0x29) (f 0 0 0 0 0) 0x0000 0x0100) [0x22, 0xFF, 0xFF]
    = some ⟨r 0x00 0x00 0x00 0x00 0x00 0xAE 0x29, f 0 0 0 0 0, 0x0000, 0x0103, [0, 1, 1, 1, 0, 0, 0, 0],
      [.opcodeFetch 0x0100 0x22, .memRead 0x0101 0xFF, .memRead 0x0102 0xFF, .memWrite 0xFFFF 0x29, .memWrite 0x0000 0xAE], 16⟩ := by decide
/-- V16 of 95_test_vectors.md. -/
theorem test_V16_lhld : seen (holding (cpu (r 0x00 0x00 0x00 0x00 0x00 0x00 0x00) (f 0 0 0 0 0) 0x0000 0x0100) [(0x025B, 0xFF), (0x025C, 0x03)]) [0x2A, 0x5B, 0x02]
    = some ⟨r 0x00 0x00 0x00 0x00 0x00 0x03 0xFF, f 0 0 0 0 0, 0x0000, 0x0103, [0, 1, 1, 1, 0, 0, 0, 0],
      [.opcodeFetch 0x0100 0x2A, .memRead 0x0101 0x5B, .memRead 0x0102 0x02, .memRead 0x025B 0xFF, .memRead 0x025C 0x03], 16⟩ := by decide
/-- V17 of 95_test_vectors.md. -/
theorem test_V17_xchg : seen (cpu (r 0x00 0x00 0x00 0x33 0x55 0x00 0xFF) (f 0 0 0 0 0) 0x0000 0x0100) [0xEB]
    = some ⟨r 0x00 0x00 0x00 0x00 0xFF 0x33 0x55, f 0 0 0 0 0, 0x0000, 0x0101, [0, 1, 1, 1, 0, 0, 0, 0],
      [.opcodeFetch 0x0100 0xEB], 4⟩ := by decide
/-- V20 of 95_test_vectors.md. -/
theorem test_V20_pushB : seen (cpu (r 0x00 0x8F 0x9D 0x00 0x00 0x00 0x00) (f 0 0 0 0 0) 0x3A2C 0x0100) [0xC5]
    = some ⟨r 0x00 0x8F 0x9D 0x00 0x00 0x00 0x00, f 0 0 0 0 0, 0x3A2A, 0x0101, [0, 1, 1, 1, 0, 0, 0, 0],
      [.opcodeFetch 0x0100 0xC5, .memWrite 0x3A2B 0x8F, .memWrite 0x3A2A 0x9D], 12⟩ := by decide
/-- V21 of 95_test_vectors.md. -/
theorem test_V21_pushD : seen (cpu (r 0x00 0x00 0x00 0x12 0x34 0x00 0x00) (f 0 0 0 0 0) 0x0001 0x0100) [0xD5]
    = some ⟨r 0x00 0x00 0x00 0x12 0x34 0x00 0x00, f 0 0 0 0 0, 0xFFFF, 0x0101, [0, 1, 1, 1, 0, 0, 0, 0],
      [.opcodeFetch 0x0100 0xD5, .memWrite 0x0000 0x12, .memWrite 0xFFFF 0x34], 12⟩ := by decide
/-- The example of R122. -/
theorem test_E122_pushH : seen (cpu (r 0x00 0x00 0x00 0x00 0x00 0x20 0x50) (f 0 0 0 0 0) 0x3000 0x0100) [0xE5]
    = some ⟨r 0x00 0x00 0x00 0x00 0x00 0x20 0x50, f 0 0 0 0 0, 0x2FFE, 0x0101, [0, 1, 1, 1, 0, 0, 0, 0],
      [.opcodeFetch 0x0100 0xE5, .memWrite 0x2FFF 0x20, .memWrite 0x2FFE 0x50], 12⟩ := by decide
/-- V23 of 95_test_vectors.md. -/
theorem test_V23_popB : seen (holding (cpu (r 0x00 0x00 0x00 0x00 0x00 0x00 0x00) (f 0 0 0 0 0) 0xFFFF 0x0100) [(0xFFFF, 0x3D), (0x0000, 0x93)]) [0xC1]
    = some ⟨r 0x00 0x93 0x3D 0x00 0x00 0x00 0x00, f 0 0 0 0 0, 0x0001, 0x0101, [0, 1, 1, 1, 0, 0, 0, 0],
      [.opcodeFetch 0x0100 0xC1, .memRead 0xFFFF 0x3D, .memRead 0x0000 0x93], 10⟩ := by decide
/-- The example of R125. -/
theorem test_E125_popD : seen (holding (cpu (r 0x00 0x00 0x00 0x00 0x00 0x00 0x00) (f 0 0 0 0 0) 0x1FFC 0x0100) [(0x1FFC, 0xCD), (0x1FFD, 0xAB)]) [0xD1]
    = some ⟨r 0x00 0x00 0x00 0xAB 0xCD 0x00 0x00, f 0 0 0 0 0, 0x1FFE, 0x0101, [0, 1, 1, 1, 0, 0, 0, 0],
      [.opcodeFetch 0x0100 0xD1, .memRead 0x1FFC 0xCD, .memRead 0x1FFD 0xAB], 10⟩ := by decide
/-- V24 of 95_test_vectors.md. -/
theorem test_V24_popH : seen (holding (cpu (r 0x00 0x00 0x00 0x00 0x00 0x00 0x00) (f 0 0 0 0 0) 0x1239 0x0100) [(0x1239, 0x3D), (0x123A, 0x93)]) [0xE1]
    = some ⟨r 0x00 0x00 0x00 0x00 0x00 0x93 0x3D, f 0 0 0 0 0, 0x123B, 0x0101, [0, 1, 1, 1, 0, 0, 0, 0],
      [.opcodeFetch 0x0100 0xE1, .memRead 0x1239 0x3D, .memRead 0x123A 0x93], 10⟩ := by decide
/-- V25 of 95_test_vectors.md. -/
theorem test_V25_popPsw : seen (holding (cpu (r 0x00 0x00 0x00 0x00 0x00 0x00 0x00) (f 0 0 0 0 0) 0x2C00 0x0100) [(0x2C00, 0xC3), (0x2C01, 0xFF)]) [0xF1]
    = some ⟨r 0xFF 0x00 0x00 0x00 0x00 0x00 0x00, f 1 1 0 0 1, 0x2C02, 0x0101, [0, 1, 1, 1, 0, 0, 0, 0],
      [.opcodeFetch 0x0100 0xF1, .memRead 0x2C00 0xC3, .memRead 0x2C01 0xFF], 10⟩ := by decide
/-- V26 of 95_test_vectors.md. -/
theorem test_V26_popPsw : seen (holding (cpu (r 0x00 0x00 0x00 0x00 0x00 0x00 0x00) (f 1 1 1 1 1) 0x2C00 0x0100) [(0x2C00, 0x2A), (0x2C01, 0x00)]) [0xF1]
    = some ⟨r 0x00 0x00 0x00 0x00 0x00 0x00 0x00, f 0 0 0 0 0, 0x2C02, 0x0101, [0, 1, 1, 1, 0, 0, 0, 0],
      [.opcodeFetch 0x0100 0xF1, .memRead 0x2C00 0x2A, .memRead 0x2C01 0x00], 10⟩ := by decide
/-- V27 of 95_test_vectors.md. -/
theorem test_V27_xthl : seen (holding (cpu (r 0x00 0x00 0x00 0x00 0x00 0x0B 0x3C) (f 0 0 0 0 0) 0x10AD 0x0100) [(0x10AD, 0xF0), (0x10AE, 0x0D)]) [0xE3]
    = some ⟨r 0x00 0x00 0x00 0x00 0x00 0x0D 0xF0, f 0 0 0 0 0, 0x10AD, 0x0101, [0, 1, 1, 1, 0, 0, 0, 0],
      [.opcodeFetch 0x0100 0xE3, .memRead 0x10AD 0xF0, .memRead 0x10AE 0x0D, .memWrite 0x10AE 0x0B, .memWrite 0x10AD 0x3C], 16⟩ := by decide
/-- V28 of 95_test_vectors.md. -/
theorem test_V28_sphl : seen (cpu (r 0x00 0x00 0x00 0x00 0x00 0x50 0x6C) (f 0 0 0 0 0) 0x0000 0x0100) [0xF9]
    = some ⟨r 0x00 0x00 0x00 0x00 0x00 0x50 0x6C, f 0 0 0 0 0, 0x506C, 0x0101, [0, 1, 1, 1, 0, 0, 0, 0],
      [.opcodeFetch 0x0100 0xF9], 6⟩ := by decide
/-- V29 of 95_test_vectors.md. -/
theorem test_V29_lxiSp : seen (cpu (r 0x00 0x00 0x00 0x00 0x00 0x00 0x00) (f 0 0 0 0 0) 0x1111 0x0100) [0x31, 0x00, 0x20]
    = some ⟨r 0x00 0x00 0x00 0x00 0x00 0x00 0x00, f 0 0 0 0 0, 0x2000, 0x0103, [0, 1, 1, 1, 0, 0, 0, 0],
      [.opcodeFetch 0x0100 0x31, .memRead 0x0101 0x00, .memRead 0x0102 0x20], 10⟩ := by decide
/-- V30 of 95_test_vectors.md. -/
theorem test_V30_inxSp : seen (cpu (r 0x00 0x00 0x00 0x00 0x00 0x00 0x00) (f 0 0 0 0 0) 0xFFFF 0x0100) [0x33]
    = some ⟨r 0x00 0x00 0x00 0x00 0x00 0x00 0x00, f 0 0 0 0 0, 0x0000, 0x0101, [0, 1, 1, 1, 0, 0, 0, 0],
      [.opcodeFetch 0x0100 0x33], 6⟩ := by decide
/-- V31 of 95_test_vectors.md. -/
theorem test_V31_dcxSp : seen (cpu (r 0x00 0x00 0x00 0x00 0x00 0x00 0x00) (f 0 0 0 0 0) 0x0000 0x0100) [0x3B]
    = some ⟨r 0x00 0x00 0x00 0x00 0x00 0x00 0x00, f 0 0 0 0 0, 0xFFFF, 0x0101, [0, 1, 1, 1, 0, 0, 0, 0],
      [.opcodeFetch 0x0100 0x3B], 6⟩ := by decide
/-- V40 of 95_test_vectors.md. -/
theorem test_V40_jmp : seen (cpu (r 0x00 0x00 0x00 0x00 0x00 0x00 0x00) (f 0 0 0 0 0) 0x0000 0x0100) [0xC3, 0x00, 0x3E]
    = some ⟨r 0x00 0x00 0x00 0x00 0x00 0x00 0x00, f 0 0 0 0 0, 0x0000, 0x3E00, [0, 1, 1, 1, 0, 0, 0, 0],
      [.opcodeFetch 0x0100 0xC3, .memRead 0x0101 0x00, .memRead 0x0102 0x3E], 10⟩ := by decide
/-- V41 of 95_test_vectors.md. -/
theorem test_V41_jc : seen (cpu (r 0x00 0x00 0x00 0x00 0x00 0x00 0x00) (f 0 0 0 0 1) 0x0000 0x0100) [0xDA, 0x34, 0x12]
    = some ⟨r 0x00 0x00 0x00 0x00 0x00 0x00 0x00, f 0 0 0 0 1, 0x0000, 0x1234, [0, 1, 1, 1, 0, 0, 0, 0],
      [.opcodeFetch 0x0100 0xDA, .memRead 0x0101 0x34, .memRead 0x0102 0x12], 10⟩ := by decide
/-- V42 of 95_test_vectors.md. -/
theorem test_V42_jc : seen (cpu (r 0x00 0x00 0x00 0x00 0x00 0x00 0x00) (f 0 0 0 0 0) 0x0000 0x0100) [0xDA, 0x34, 0x12]
    = some ⟨r 0x00 0x00 0x00 0x00 0x00 0x00 0x00, f 0 0 0 0 0, 0x0000, 0x0103, [0, 1, 1, 1, 0, 0, 0, 0],
      [.opcodeFetch 0x0100 0xDA, .memRead 0x0101 0x34], 7⟩ := by decide
/-- V43 of 95_test_vectors.md. -/
theorem test_V43_jnc : seen (cpu (r 0x00 0x00 0x00 0x00 0x00 0x00 0x00) (f 0 0 0 0 0) 0x0000 0x0100) [0xD2, 0x34, 0x12]
    = some ⟨r 0x00 0x00 0x00 0x00 0x00 0x00 0x00, f 0 0 0 0 0, 0x0000, 0x1234, [0, 1, 1, 1, 0, 0, 0, 0],
      [.opcodeFetch 0x0100 0xD2, .memRead 0x0101 0x34, .memRead 0x0102 0x12], 10⟩ := by decide
/-- V44 of 95_test_vectors.md. -/
theorem test_V44_jz : seen (cpu (r 0x00 0x00 0x00 0x00 0x00 0x00 0x00) (f 0 0 0 0 0) 0x0000 0x0100) [0xCA, 0x34, 0x12]
    = some ⟨r 0x00 0x00 0x00 0x00 0x00 0x00 0x00, f 0 0 0 0 0, 0x0000, 0x0103, [0, 1, 1, 1, 0, 0, 0, 0],
      [.opcodeFetch 0x0100 0xCA, .memRead 0x0101 0x34], 7⟩ := by decide
/-- V45 of 95_test_vectors.md. -/
theorem test_V45_jnz : seen (cpu (r 0x00 0x00 0x00 0x00 0x00 0x00 0x00) (f 0 0 0 0 0) 0x0000 0x0100) [0xC2, 0x34, 0x12]
    = some ⟨r 0x00 0x00 0x00 0x00 0x00 0x00 0x00, f 0 0 0 0 0, 0x0000, 0x1234, [0, 1, 1, 1, 0, 0, 0, 0],
      [.opcodeFetch 0x0100 0xC2, .memRead 0x0101 0x34, .memRead 0x0102 0x12], 10⟩ := by decide
/-- V46 of 95_test_vectors.md. -/
theorem test_V46_jp : seen (cpu (r 0x00 0x00 0x00 0x00 0x00 0x00 0x00) (f 0 0 0 0 0) 0x0000 0x0100) [0xF2, 0x34, 0x12]
    = some ⟨r 0x00 0x00 0x00 0x00 0x00 0x00 0x00, f 0 0 0 0 0, 0x0000, 0x1234, [0, 1, 1, 1, 0, 0, 0, 0],
      [.opcodeFetch 0x0100 0xF2, .memRead 0x0101 0x34, .memRead 0x0102 0x12], 10⟩ := by decide
/-- V47 of 95_test_vectors.md. -/
theorem test_V47_jm : seen (cpu (r 0x00 0x00 0x00 0x00 0x00 0x00 0x00) (f 1 0 0 0 0) 0x0000 0x0100) [0xFA, 0x34, 0x12]
    = some ⟨r 0x00 0x00 0x00 0x00 0x00 0x00 0x00, f 1 0 0 0 0, 0x0000, 0x1234, [0, 1, 1, 1, 0, 0, 0, 0],
      [.opcodeFetch 0x0100 0xFA, .memRead 0x0101 0x34, .memRead 0x0102 0x12], 10⟩ := by decide
/-- V48 of 95_test_vectors.md. -/
theorem test_V48_jpe : seen (cpu (r 0x00 0x00 0x00 0x00 0x00 0x00 0x00) (f 0 0 0 1 0) 0x0000 0x0100) [0xEA, 0x34, 0x12]
    = some ⟨r 0x00 0x00 0x00 0x00 0x00 0x00 0x00, f 0 0 0 1 0, 0x0000, 0x1234, [0, 1, 1, 1, 0, 0, 0, 0],
      [.opcodeFetch 0x0100 0xEA, .memRead 0x0101 0x34, .memRead 0x0102 0x12], 10⟩ := by decide
/-- V49 of 95_test_vectors.md. -/
theorem test_V49_jpo : seen (cpu (r 0x00 0x00 0x00 0x00 0x00 0x00 0x00) (f 0 0 0 1 0) 0x0000 0x0100) [0xE2, 0x34, 0x12]
    = some ⟨r 0x00 0x00 0x00 0x00 0x00 0x00 0x00, f 0 0 0 1 0, 0x0000, 0x0103, [0, 1, 1, 1, 0, 0, 0, 0],
      [.opcodeFetch 0x0100 0xE2, .memRead 0x0101 0x34], 7⟩ := by decide
/-- V50 of 95_test_vectors.md. -/
theorem test_V50_pchl : seen (cpu (r 0x00 0x00 0x00 0x00 0x00 0x41 0x3E) (f 0 0 0 0 0) 0x0000 0x0100) [0xE9]
    = some ⟨r 0x00 0x00 0x00 0x00 0x00 0x41 0x3E, f 0 0 0 0 0, 0x0000, 0x413E, [0, 1, 1, 1, 0, 0, 0, 0],
      [.opcodeFetch 0x0100 0xE9], 6⟩ := by decide
/-- V51 of 95_test_vectors.md. -/
theorem test_V51_jnz : seen (cpu (r 0x00 0x00 0x00 0x00 0x00 0x00 0x00) (f 0 1 0 0 0) 0x0000 0xFFFE) [0xC2, 0x34, 0x12]
    = some ⟨r 0x00 0x00 0x00 0x00 0x00 0x00 0x00, f 0 1 0 0 0, 0x0000, 0x0001, [0, 1, 1, 1, 0, 0, 0, 0],
      [.opcodeFetch 0xFFFE 0xC2, .memRead 0xFFFF 0x34], 7⟩ := by decide
/-- V60 of 95_test_vectors.md. -/
theorem test_V60_call : seen (cpu (r 0x00 0x00 0x00 0x00 0x00 0x00 0x00) (f 0 0 0 0 0) 0x3000 0x0100) [0xCD, 0x00, 0x20]
    = some ⟨r 0x00 0x00 0x00 0x00 0x00 0x00 0x00, f 0 0 0 0 0, 0x2FFE, 0x2000, [0, 1, 1, 1, 0, 0, 0, 0],
      [.opcodeFetch 0x0100 0xCD, .memRead 0x0101 0x00, .memRead 0x0102 0x20, .memWrite 0x2FFF 0x01, .memWrite 0x2FFE 0x03], 18⟩ := by decide
/-- V61 of 95_test_vectors.md. -/
theorem test_V61_call : seen (cpu (r 0x00 0x00 0x00 0x00 0x00 0x00 0x00) (f 0 0 0 0 0) 0x0001 0xFFFD) [0xCD, 0x00, 0x20]
    = some ⟨r 0x00 0x00 0x00 0x00 0x00 0x00 0x00, f 0 0 0 0 0, 0xFFFF, 0x2000, [0, 1, 1, 1, 0, 0, 0, 0],
      [.opcodeFetch 0xFFFD 0xCD, .memRead 0xFFFE 0x00, .memRead 0xFFFF 0x20, .memWrite 0x0000 0x00, .memWrite 0xFFFF 0x00], 18⟩ := by decide
/-- V62 of 95_test_vectors.md. -/
theorem test_V62_cc : seen (cpu (r 0x00 0x00 0x00 0x00 0x00 0x00 0x00) (f 0 0 0 0 0) 0x3000 0x0100) [0xDC, 0x00, 0x20]
    = some ⟨r 0x00 0x00 0x00 0x00 0x00 0x00 0x00, f 0 0 0 0 0, 0x3000, 0x0103, [0, 1, 1, 1, 0, 0, 0, 0],
      [.opcodeFetch 0x0100 0xDC, .memRead 0x0101 0x00], 9⟩ := by decide
/-- The example of R157. -/
theorem test_E157_cnc : seen (cpu (r 0x00 0x00 0x00 0x00 0x00 0x00 0x00) (f 0 0 0 0 0) 0x3000 0x0200) [0xD4, 0x00, 0x04]
    = some ⟨r 0x00 0x00 0x00 0x00 0x00 0x00 0x00, f 0 0 0 0 0, 0x2FFE, 0x0400, [0, 1, 1, 1, 0, 0, 0, 0],
      [.opcodeFetch 0x0200 0xD4, .memRead 0x0201 0x00, .memRead 0x0202 0x04, .memWrite 0x2FFF 0x02, .memWrite 0x2FFE 0x03], 18⟩ := by decide
/-- V63 of 95_test_vectors.md. -/
theorem test_V63_cz : seen (cpu (r 0x00 0x00 0x00 0x00 0x00 0x00 0x00) (f 0 1 0 0 0) 0x3000 0x0100) [0xCC, 0x00, 0x20]
    = some ⟨r 0x00 0x00 0x00 0x00 0x00 0x00 0x00, f 0 1 0 0 0, 0x2FFE, 0x2000, [0, 1, 1, 1, 0, 0, 0, 0],
      [.opcodeFetch 0x0100 0xCC, .memRead 0x0101 0x00, .memRead 0x0102 0x20, .memWrite 0x2FFF 0x01, .memWrite 0x2FFE 0x03], 18⟩ := by decide
/-- The example of R159. -/
theorem test_E159_cnz : seen (cpu (r 0x00 0x00 0x00 0x00 0x00 0x00 0x00) (f 0 1 0 0 0) 0x3000 0x0200) [0xC4, 0x00, 0x04]
    = some ⟨r 0x00 0x00 0x00 0x00 0x00 0x00 0x00, f 0 1 0 0 0, 0x3000, 0x0203, [0, 1, 1, 1, 0, 0, 0, 0],
      [.opcodeFetch 0x0200 0xC4, .memRead 0x0201 0x00], 9⟩ := by decide
/-- The example of R160. -/
theorem test_E160_cp : seen (cpu (r 0x00 0x00 0x00 0x00 0x00 0x00 0x00) (f 0 0 0 0 0) 0x3000 0x0200) [0xF4, 0x00, 0x04]
    = some ⟨r 0x00 0x00 0x00 0x00 0x00 0x00 0x00, f 0 0 0 0 0, 0x2FFE, 0x0400, [0, 1, 1, 1, 0, 0, 0, 0],
      [.opcodeFetch 0x0200 0xF4, .memRead 0x0201 0x00, .memRead 0x0202 0x04, .memWrite 0x2FFF 0x02, .memWrite 0x2FFE 0x03], 18⟩ := by decide
/-- V64 of 95_test_vectors.md. -/
theorem test_V64_cm : seen (cpu (r 0x00 0x00 0x00 0x00 0x00 0x00 0x00) (f 0 0 0 0 0) 0x3000 0x0100) [0xFC, 0x00, 0x20]
    = some ⟨r 0x00 0x00 0x00 0x00 0x00 0x00 0x00, f 0 0 0 0 0, 0x3000, 0x0103, [0, 1, 1, 1, 0, 0, 0, 0],
      [.opcodeFetch 0x0100 0xFC, .memRead 0x0101 0x00], 9⟩ := by decide
/-- The example of R162. -/
theorem test_E162_cpe : seen (cpu (r 0x00 0x00 0x00 0x00 0x00 0x00 0x00) (f 0 0 0 1 0) 0x3000 0x0200) [0xEC, 0x00, 0x04]
    = some ⟨r 0x00 0x00 0x00 0x00 0x00 0x00 0x00, f 0 0 0 1 0, 0x2FFE, 0x0400, [0, 1, 1, 1, 0, 0, 0, 0],
      [.opcodeFetch 0x0200 0xEC, .memRead 0x0201 0x00, .memRead 0x0202 0x04, .memWrite 0x2FFF 0x02, .memWrite 0x2FFE 0x03], 18⟩ := by decide
/-- V65 of 95_test_vectors.md. -/
theorem test_V65_cpo : seen (cpu (r 0x00 0x00 0x00 0x00 0x00 0x00 0x00) (f 0 0 0 0 0) 0x3000 0x0100) [0xE4, 0x78, 0x56]
    = some ⟨r 0x00 0x00 0x00 0x00 0x00 0x00 0x00, f 0 0 0 0 0, 0x2FFE, 0x5678, [0, 1, 1, 1, 0, 0, 0, 0],
      [.opcodeFetch 0x0100 0xE4, .memRead 0x0101 0x78, .memRead 0x0102 0x56, .memWrite 0x2FFF 0x01, .memWrite 0x2FFE 0x03], 18⟩ := by decide
/-- V66 of 95_test_vectors.md. -/
theorem test_V66_ret : seen (holding (cpu (r 0x00 0x00 0x00 0x00 0x00 0x00 0x00) (f 0 0 0 0 0) 0x2FFE 0x0100) [(0x2FFE, 0x03), (0x2FFF, 0x01)]) [0xC9]
    = some ⟨r 0x00 0x00 0x00 0x00 0x00 0x00 0x00, f 0 0 0 0 0, 0x3000, 0x0103, [0, 1, 1, 1, 0, 0, 0, 0],
      [.opcodeFetch 0x0100 0xC9, .memRead 0x2FFE 0x03, .memRead 0x2FFF 0x01], 10⟩ := by decide
/-- The example of R165. -/
theorem test_E165_rc : seen (holding (cpu (r 0x00 0x00 0x00 0x00 0x00 0x00 0x00) (f 0 0 0 0 1) 0x1FFE 0x0150) [(0x1FFE, 0x0C)]) [0xD8]
    = some ⟨r 0x00 0x00 0x00 0x00 0x00 0x00 0x00, f 0 0 0 0 1, 0x2000, 0x000C, [0, 1, 1, 1, 0, 0, 0, 0],
      [.opcodeFetch 0x0150 0xD8, .memRead 0x1FFE 0x0C, .memRead 0x1FFF 0x00], 12⟩ := by decide
/-- V67 of 95_test_vectors.md. -/
theorem test_V67_rnc : seen (holding (cpu (r 0x00 0x00 0x00 0x00 0x00 0x00 0x00) (f 0 0 0 0 0) 0x2FFE 0x0100) [(0x2FFE, 0x03), (0x2FFF, 0x01)]) [0xD0]
    = some ⟨r 0x00 0x00 0x00 0x00 0x00 0x00 0x00, f 0 0 0 0 0, 0x3000, 0x0103, [0, 1, 1, 1, 0, 0, 0, 0],
      [.opcodeFetch 0x0100 0xD0, .memRead 0x2FFE 0x03, .memRead 0x2FFF 0x01], 12⟩ := by decide
/-- V68 of 95_test_vectors.md. -/
theorem test_V68_rnc : seen (holding (cpu (r 0x00 0x00 0x00 0x00 0x00 0x00 0x00) (f 0 0 0 0 1) 0x2FFE 0x0100) [(0x2FFE, 0x03), (0x2FFF, 0x01)]) [0xD0]
    = some ⟨r 0x00 0x00 0x00 0x00 0x00 0x00 0x00, f 0 0 0 0 1, 0x2FFE, 0x0101, [0, 1, 1, 1, 0, 0, 0, 0],
      [.opcodeFetch 0x0100 0xD0], 6⟩ := by decide
/-- The example of R167. -/
theorem test_E167_rz : seen (holding (cpu (r 0x00 0x00 0x00 0x00 0x00 0x00 0x00) (f 0 1 0 0 0) 0x1FFE 0x0150) [(0x1FFE, 0x0C)]) [0xC8]
    = some ⟨r 0x00 0x00 0x00 0x00 0x00 0x00 0x00, f 0 1 0 0 0, 0x2000, 0x000C, [0, 1, 1, 1, 0, 0, 0, 0],
      [.opcodeFetch 0x0150 0xC8, .memRead 0x1FFE 0x0C, .memRead 0x1FFF 0x00], 12⟩ := by decide
/-- The example of R168. -/
theorem test_E168_rnz : seen (holding (cpu (r 0x00 0x00 0x00 0x00 0x00 0x00 0x00) (f 0 1 0 0 0) 0x1FFE 0x0150) [(0x1FFE, 0x0C)]) [0xC0]
    = some ⟨r 0x00 0x00 0x00 0x00 0x00 0x00 0x00, f 0 1 0 0 0, 0x1FFE, 0x0151, [0, 1, 1, 1, 0, 0, 0, 0],
      [.opcodeFetch 0x0150 0xC0], 6⟩ := by decide
/-- The example of R169. -/
theorem test_E169_rp : seen (holding (cpu (r 0x00 0x00 0x00 0x00 0x00 0x00 0x00) (f 0 0 0 0 0) 0x1FFE 0x0150) [(0x1FFE, 0x0C)]) [0xF0]
    = some ⟨r 0x00 0x00 0x00 0x00 0x00 0x00 0x00, f 0 0 0 0 0, 0x2000, 0x000C, [0, 1, 1, 1, 0, 0, 0, 0],
      [.opcodeFetch 0x0150 0xF0, .memRead 0x1FFE 0x0C, .memRead 0x1FFF 0x00], 12⟩ := by decide
/-- The example of R170. -/
theorem test_E170_rm : seen (holding (cpu (r 0x00 0x00 0x00 0x00 0x00 0x00 0x00) (f 0 0 0 0 0) 0x1FFE 0x0150) [(0x1FFE, 0x0C)]) [0xF8]
    = some ⟨r 0x00 0x00 0x00 0x00 0x00 0x00 0x00, f 0 0 0 0 0, 0x1FFE, 0x0151, [0, 1, 1, 1, 0, 0, 0, 0],
      [.opcodeFetch 0x0150 0xF8], 6⟩ := by decide
/-- V69 of 95_test_vectors.md. -/
theorem test_V69_rpe : seen (holding (cpu (r 0x00 0x00 0x00 0x00 0x00 0x00 0x00) (f 0 0 0 1 0) 0xFFFF 0x0100) [(0xFFFF, 0x10), (0x0000, 0x20)]) [0xE8]
    = some ⟨r 0x00 0x00 0x00 0x00 0x00 0x00 0x00, f 0 0 0 1 0, 0x0001, 0x2010, [0, 1, 1, 1, 0, 0, 0, 0],
      [.opcodeFetch 0x0100 0xE8, .memRead 0xFFFF 0x10, .memRead 0x0000 0x20], 12⟩ := by decide
/-- The example of R172. -/
theorem test_E172_rpo : seen (holding (cpu (r 0x00 0x00 0x00 0x00 0x00 0x00 0x00) (f 0 0 0 0 0) 0x1FFE 0x0150) [(0x1FFE, 0x0C)]) [0xE0]
    = some ⟨r 0x00 0x00 0x00 0x00 0x00 0x00 0x00, f 0 0 0 0 0, 0x2000, 0x000C, [0, 1, 1, 1, 0, 0, 0, 0],
      [.opcodeFetch 0x0150 0xE0, .memRead 0x1FFE 0x0C, .memRead 0x1FFF 0x00], 12⟩ := by decide
/-- V71 of 95_test_vectors.md. -/
theorem test_V71_rst : seen (cpu (r 0x00 0x00 0x00 0x00 0x00 0x00 0x00) (f 0 0 0 0 0) 0x2000 0x1234) [0xEF]
    = some ⟨r 0x00 0x00 0x00 0x00 0x00 0x00 0x00, f 0 0 0 0 0, 0x1FFE, 0x0028, [0, 1, 1, 1, 0, 0, 0, 0],
      [.opcodeFetch 0x1234 0xEF, .memWrite 0x1FFF 0x12, .memWrite 0x1FFE 0x35], 12⟩ := by decide
/-- V72 of 95_test_vectors.md. -/
theorem test_V72_rst : seen (cpu (r 0x00 0x00 0x00 0x00 0x00 0x00 0x00) (f 0 0 0 0 0) 0x0000 0x00FF) [0xFF]
    = some ⟨r 0x00 0x00 0x00 0x00 0x00 0x00 0x00, f 0 0 0 0 0, 0xFFFE, 0x0038, [0, 1, 1, 1, 0, 0, 0, 0],
      [.opcodeFetch 0x00FF 0xFF, .memWrite 0xFFFF 0x01, .memWrite 0xFFFE 0x00], 12⟩ := by decide
/-- V80 of 95_test_vectors.md. -/
theorem test_V80_inPort : seen (answered (cpu (r 0x00 0x00 0x00 0x00 0x00 0x00 0x00) (f 0 0 0 0 0) 0x0000 0x0100) [0x5A]) [0xDB, 0x21]
    = some ⟨r 0x5A 0x00 0x00 0x00 0x00 0x00 0x00, f 0 0 0 0 0, 0x0000, 0x0102, [0, 1, 1, 1, 0, 0, 0, 0],
      [.opcodeFetch 0x0100 0xDB, .memRead 0x0101 0x21, .ioRead 0x21 0x5A], 10⟩ := by decide
/-- V81 of 95_test_vectors.md. -/
theorem test_V81_outPort : seen (cpu (r 0x80 0x00 0x00 0x00 0x00 0x00 0x00) (f 0 0 0 0 0) 0x0000 0x0100) [0xD3, 0xF8]
    = some ⟨r 0x80 0x00 0x00 0x00 0x00 0x00 0x00, f 0 0 0 0 0, 0x0000, 0x0102, [0, 1, 1, 1, 0, 0, 0, 0],
      [.opcodeFetch 0x0100 0xD3, .memRead 0x0101 0xF8, .ioWrite 0xF8 0x80], 10⟩ := by decide
/-- V90 of 95_test_vectors.md. -/
theorem test_V90_inrR : seen (cpu (r 0xFF 0x00 0x00 0x00 0x00 0x00 0x00) (f 0 0 0 0 0) 0x0000 0x0100) [0x3C]
    = some ⟨r 0x00 0x00 0x00 0x00 0x00 0x00 0x00, f 0 1 1 1 0, 0x0000, 0x0101, [0, 1, 1, 1, 0, 0, 0, 0],
      [.opcodeFetch 0x0100 0x3C], 4⟩ := by decide
/-- V91 of 95_test_vectors.md. -/
theorem test_V91_inrR : seen (cpu (r 0x00 0x00 0x0F 0x00 0x00 0x00 0x00) (f 0 0 0 0 1) 0x0000 0x0100) [0x0C]
    = some ⟨r 0x00 0x00 0x10 0x00 0x00 0x00 0x00, f 0 0 1 0 1, 0x0000, 0x0101, [0, 1, 1, 1, 0, 0, 0, 0],
      [.opcodeFetch 0x0100 0x0C], 4⟩ := by decide
/-- V93 of 95_test_vectors.md. -/
theorem test_V93_dcrR : seen (cpu (r 0x00 0x00 0x00 0x00 0x00 0x00 0x00) (f 0 0 0 0 0) 0x0000 0x0100) [0x05]
    = some ⟨r 0x00 0xFF 0x00 0x00 0x00 0x00 0x00, f 1 0 0 1 0, 0x0000, 0x0101, [0, 1, 1, 1, 0, 0, 0, 0],
      [.opcodeFetch 0x0100 0x05], 4⟩ := by decide
/-- V94 of 95_test_vectors.md. -/
theorem test_V94_dcrR : seen (cpu (r 0x00 0x00 0x00 0x00 0x01 0x00 0x00) (f 0 0 0 0 1) 0x0000 0x0100) [0x1D]
    = some ⟨r 0x00 0x00 0x00 0x00 0x00 0x00 0x00, f 0 1 1 1 1, 0x0000, 0x0101, [0, 1, 1, 1, 0, 0, 0, 0],
      [.opcodeFetch 0x0100 0x1D], 4⟩ := by decide
/-- V97 of 95_test_vectors.md. -/
theorem test_V97_inrM : seen (holding (cpu (r 0x00 0x00 0x00 0x00 0x00 0x20 0x50) (f 0 0 0 0 0) 0x0000 0x0100) [(0x2050, 0x99)]) [0x34]
    = some ⟨r 0x00 0x00 0x00 0x00 0x00 0x20 0x50, f 1 0 0 1 0, 0x0000, 0x0101, [0, 1, 1, 1, 0, 0, 0, 0],
      [.opcodeFetch 0x0100 0x34, .memRead 0x2050 0x99, .memWrite 0x2050 0x9A], 10⟩ := by decide
/-- V98 of 95_test_vectors.md. -/
theorem test_V98_dcrM : seen (holding (cpu (r 0x00 0x00 0x00 0x00 0x00 0x20 0x50) (f 0 0 0 0 0) 0x0000 0x0100) [(0x2050, 0x40)]) [0x35]
    = some ⟨r 0x00 0x00 0x00 0x00 0x00 0x20 0x50, f 0 0 0 1 0, 0x0000, 0x0101, [0, 1, 1, 1, 0, 0, 0, 0],
      [.opcodeFetch 0x0100 0x35, .memRead 0x2050 0x40, .memWrite 0x2050 0x3F], 10⟩ := by decide
/-- V99 of 95_test_vectors.md. -/
theorem test_V99_inxB : seen (cpu (r 0x00 0xFF 0xFF 0x00 0x00 0x00 0x00) (f 0 0 0 0 0) 0x0000 0x0100) [0x03]
    = some ⟨r 0x00 0x00 0x00 0x00 0x00 0x00 0x00, f 0 0 0 0 0, 0x0000, 0x0101, [0, 1, 1, 1, 0, 0, 0, 0],
      [.opcodeFetch 0x0100 0x03], 6⟩ := by decide
/-- V100 of 95_test_vectors.md. -/
theorem test_V100_inxD : seen (cpu (r 0x00 0x00 0x00 0x01 0xFF 0x00 0x00) (f 0 0 0 0 0) 0x0000 0x0100) [0x13]
    = some ⟨r 0x00 0x00 0x00 0x02 0x00 0x00 0x00, f 0 0 0 0 0, 0x0000, 0x0101, [0, 1, 1, 1, 0, 0, 0, 0],
      [.opcodeFetch 0x0100 0x13], 6⟩ := by decide
/-- V101 of 95_test_vectors.md. -/
theorem test_V101_inxH : seen (cpu (r 0x00 0x00 0x00 0x00 0x00 0x38 0xFF) (f 0 0 0 0 0) 0x0000 0x0100) [0x23]
    = some ⟨r 0x00 0x00 0x00 0x00 0x00 0x39 0x00, f 0 0 0 0 0, 0x0000, 0x0101, [0, 1, 1, 1, 0, 0, 0, 0],
      [.opcodeFetch 0x0100 0x23], 6⟩ := by decide
/-- V102 of 95_test_vectors.md. -/
theorem test_V102_dcxB : seen (cpu (r 0x00 0x00 0x00 0x00 0x00 0x00 0x00) (f 0 0 0 0 0) 0x0000 0x0100) [0x0B]
    = some ⟨r 0x00 0xFF 0xFF 0x00 0x00 0x00 0x00, f 0 0 0 0 0, 0x0000, 0x0101, [0, 1, 1, 1, 0, 0, 0, 0],
      [.opcodeFetch 0x0100 0x0B], 6⟩ := by decide
/-- The example of R193. -/
theorem test_E193_dcxD : seen (cpu (r 0x00 0x00 0x00 0x00 0x00 0x00 0x00) (f 0 0 0 0 0) 0x0000 0x0100) [0x1B]
    = some ⟨r 0x00 0x00 0x00 0xFF 0xFF 0x00 0x00, f 0 0 0 0 0, 0x0000, 0x0101, [0, 1, 1, 1, 0, 0, 0, 0],
      [.opcodeFetch 0x0100 0x1B], 6⟩ := by decide
/-- V103 of 95_test_vectors.md. -/
theorem test_V103_dcxH : seen (cpu (r 0x00 0x00 0x00 0x00 0x00 0x98 0x00) (f 0 0 0 0 0) 0x0000 0x0100) [0x2B]
    = some ⟨r 0x00 0x00 0x00 0x00 0x00 0x97 0xFF, f 0 0 0 0 0, 0x0000, 0x0101, [0, 1, 1, 1, 0, 0, 0, 0],
      [.opcodeFetch 0x0100 0x2B], 6⟩ := by decide
/-- V110 of 95_test_vectors.md. -/
theorem test_V110_addR : seen (cpu (r 0x6C 0x00 0x00 0x2E 0x00 0x00 0x00) (f 0 0 0 0 0) 0x0000 0x0100) [0x82]
    = some ⟨r 0x9A 0x00 0x00 0x2E 0x00 0x00 0x00, f 1 0 1 1 0, 0x0000, 0x0101, [0, 1, 1, 1, 0, 0, 0, 0],
      [.opcodeFetch 0x0100 0x82], 4⟩ := by decide
/-- V111 of 95_test_vectors.md. -/
theorem test_V111_addR : seen (cpu (r 0x80 0x00 0x00 0x00 0x00 0x00 0x00) (f 0 0 0 0 0) 0x0000 0x0100) [0x87]
    = some ⟨r 0x00 0x00 0x00 0x00 0x00 0x00 0x00, f 0 1 0 1 1, 0x0000, 0x0101, [0, 1, 1, 1, 0, 0, 0, 0],
      [.opcodeFetch 0x0100 0x87], 4⟩ := by decide
/-- V113 of 95_test_vectors.md. -/
theorem test_V113_adcR : seen (cpu (r 0x42 0x00 0x3D 0x00 0x00 0x00 0x00) (f 0 0 0 0 1) 0x0000 0x0100) [0x89]
    = some ⟨r 0x80 0x00 0x3D 0x00 0x00 0x00 0x00, f 1 0 1 0 0, 0x0000, 0x0101, [0, 1, 1, 1, 0, 0, 0, 0],
      [.opcodeFetch 0x0100 0x89], 4⟩ := by decide
/-- V114 of 95_test_vectors.md. -/
theorem test_V114_adcR : seen (cpu (r 0xFF 0x00 0x00 0x00 0x00 0x00 0x00) (f 0 0 0 0 1) 0x0000 0x0100) [0x88]
    = some ⟨r 0x00 0x00 0x00 0x00 0x00 0x00 0x00, f 0 1 1 1 1, 0x0000, 0x0101, [0, 1, 1, 1, 0, 0, 0, 0],
      [.opcodeFetch 0x0100 0x88], 4⟩ := by decide
/-- V115 of 95_test_vectors.md. -/
theorem test_V115_addM : seen (holding (cpu (r 0xFF 0x00 0x00 0x00 0x00 0x20 0x50) (f 0 0 0 0 0) 0x0000 0x0100) [(0x2050, 0x01)]) [0x86]
    = some ⟨r 0x00 0x00 0x00 0x00 0x00 0x20 0x50, f 0 1 1 1 1, 0x0000, 0x0101, [0, 1, 1, 1, 0, 0, 0, 0],
      [.opcodeFetch 0x0100 0x86, .memRead 0x2050 0x01], 7⟩ := by decide
/-- V116 of 95_test_vectors.md. -/
theorem test_V116_adcM : seen (holding (cpu (r 0xFF 0x00 0x00 0x00 0x00 0x20 0x50) (f 0 0 0 0 1) 0x0000 0x0100) [(0x2050, 0xFF)]) [0x8E]
    = some ⟨r 0xFF 0x00 0x00 0x00 0x00 0x20 0x50, f 1 0 1 1 1, 0x0000, 0x0101, [0, 1, 1, 1, 0, 0, 0, 0],
      [.opcodeFetch 0x0100 0x8E, .memRead 0x2050 0xFF], 7⟩ := by decide
/-- V117 of 95_test_vectors.md. -/
theorem test_V117_adi : seen (cpu (r 0x14 0x00 0x00 0x00 0x00 0x00 0x00) (f 0 0 0 0 0) 0x0000 0x0100) [0xC6, 0x42]
    = some ⟨r 0x56 0x00 0x00 0x00 0x00 0x00 0x00, f 0 0 0 1 0, 0x0000, 0x0102, [0, 1, 1, 1, 0, 0, 0, 0],
      [.opcodeFetch 0x0100 0xC6, .memRead 0x0101 0x42], 7⟩ := by decide
/-- V118 of 95_test_vectors.md. -/
theorem test_V118_aci : seen (cpu (r 0x14 0x00 0x00 0x00 0x00 0x00 0x00) (f 0 0 0 0 1) 0x0000 0x0100) [0xCE, 0x42]
    = some ⟨r 0x57 0x00 0x00 0x00 0x00 0x00 0x00, f 0 0 0 0 0, 0x0000, 0x0102, [0, 1, 1, 1, 0, 0, 0, 0],
      [.opcodeFetch 0x0100 0xCE, .memRead 0x0101 0x42], 7⟩ := by decide
/-- V119 of 95_test_vectors.md. -/
theorem test_V119_dadB : seen (cpu (r 0x00 0x33 0x9F 0x00 0x00 0xA1 0x7B) (f 0 1 0 0 1) 0x0000 0x0100) [0x09]
    = some ⟨r 0x00 0x33 0x9F 0x00 0x00 0xD5 0x1A, f 0 1 0 0 0, 0x0000, 0x0101, [0, 1, 1, 1, 0, 0, 0, 0],
      [.opcodeFetch 0x0100 0x09, .idleDad, .idleDad], 10⟩ := by decide
/-- V120 of 95_test_vectors.md. -/
theorem test_V120_dadD : seen (cpu (r 0x00 0x00 0x00 0x80 0x00 0x80 0x00) (f 0 0 0 0 0) 0x0000 0x0100) [0x19]
    = some ⟨r 0x00 0x00 0x00 0x80 0x00 0x00 0x00, f 0 0 0 0 1, 0x0000, 0x0101, [0, 1, 1, 1, 0, 0, 0, 0],
      [.opcodeFetch 0x0100 0x19, .idleDad, .idleDad], 10⟩ := by decide
/-- V121 of 95_test_vectors.md. -/
theorem test_V121_dadH : seen (cpu (r 0x00 0x00 0x00 0x00 0x00 0x43 0x21) (f 0 0 0 0 1) 0x0000 0x0100) [0x29]
    = some ⟨r 0x00 0x00 0x00 0x00 0x00 0x86 0x42, f 0 0 0 0 0, 0x0000, 0x0101, [0, 1, 1, 1, 0, 0, 0, 0],
      [.opcodeFetch 0x0100 0x29, .idleDad, .idleDad], 10⟩ := by decide
/-- V122 of 95_test_vectors.md. -/
theorem test_V122_dadSp : seen (cpu (r 0x00 0x00 0x00 0x00 0x00 0x00 0x02) (f 0 0 0 0 0) 0xFFFE 0x0100) [0x39]
    = some ⟨r 0x00 0x00 0x00 0x00 0x00 0x00 0x00, f 0 0 0 0 1, 0xFFFE, 0x0101, [0, 1, 1, 1, 0, 0, 0, 0],
      [.opcodeFetch 0x0100 0x39, .idleDad, .idleDad], 10⟩ := by decide
/-- V123 of 95_test_vectors.md. -/
theorem test_V123_subR : seen (cpu (r 0x3E 0x00 0x00 0x00 0x00 0x00 0x00) (f 0 0 0 0 1) 0x0000 0x0100) [0x97]
    = some ⟨r 0x00 0x00 0x00 0x00 0x00 0x00 0x00, f 0 1 1 1 0, 0x0000, 0x0101, [0, 1, 1, 1, 0, 0, 0, 0],
      [.opcodeFetch 0x0100 0x97], 4⟩ := by decide
/-- V124 of 95_test_vectors.md. -/
theorem test_V124_subR : seen (cpu (r 0x05 0x06 0x00 0x00 0x00 0x00 0x00) (f 0 0 0 0 0) 0x0000 0x0100) [0x90]
    = some ⟨r 0xFF 0x06 0x00 0x00 0x00 0x00 0x00, f 1 0 0 1 1, 0x0000, 0x0101, [0, 1, 1, 1, 0, 0, 0, 0],
      [.opcodeFetch 0x0100 0x90], 4⟩ := by decide
/-- V126 of 95_test_vectors.md. -/
theorem test_V126_sbbR : seen (cpu (r 0x04 0x00 0x00 0x00 0x00 0x00 0x02) (f 0 0 0 0 1) 0x0000 0x0100) [0x9D]
    = some ⟨r 0x01 0x00 0x00 0x00 0x00 0x00 0x02, f 0 0 1 0 0, 0x0000, 0x0101, [0, 1, 1, 1, 0, 0, 0, 0],
      [.opcodeFetch 0x0100 0x9D], 4⟩ := by decide
/-- V127 of 95_test_vectors.md. -/
theorem test_V127_sbbR : seen (cpu (r 0x00 0xFF 0x00 0x00 0x00 0x00 0x00) (f 0 0 0 0 1) 0x0000 0x0100) [0x98]
    = some ⟨r 0x00 0xFF 0x00 0x00 0x00 0x00 0x00, f 0 1 0 1 1, 0x0000, 0x0101, [0, 1, 1, 1, 0, 0, 0, 0],
      [.opcodeFetch 0x0100 0x98], 4⟩ := by decide
/-- V128 of 95_test_vectors.md. -/
theorem test_V128_subM : seen (holding (cpu (r 0x80 0x00 0x00 0x00 0x00 0x20 0x50) (f 0 0 0 0 0) 0x0000 0x0100) [(0x2050, 0x01)]) [0x96]
    = some ⟨r 0x7F 0x00 0x00 0x00 0x00 0x20 0x50, f 0 0 0 0 0, 0x0000, 0x0101, [0, 1, 1, 1, 0, 0, 0, 0],
      [.opcodeFetch 0x0100 0x96, .memRead 0x2050 0x01], 7⟩ := by decide
/-- V129 of 95_test_vectors.md. -/
theorem test_V129_sbbM : seen (holding (cpu (r 0x00 0x00 0x00 0x00 0x00 0x20 0x50) (f 0 0 0 0 1) 0x0000 0x0100) [(0x2050, 0xFF)]) [0x9E]
    = some ⟨r 0x00 0x00 0x00 0x00 0x00 0x20 0x50, f 0 1 0 1 1, 0x0000, 0x0101, [0, 1, 1, 1, 0, 0, 0, 0],
      [.opcodeFetch 0x0100 0x9E, .memRead 0x2050 0xFF], 7⟩ := by decide
/-- V130 of 95_test_vectors.md. -/
theorem test_V130_sui : seen (cpu (r 0x00 0x00 0x00 0x00 0x00 0x00 0x00) (f 0 0 0 0 0) 0x0000 0x0100) [0xD6, 0x01]
    = some ⟨r 0xFF 0x00 0x00 0x00 0x00 0x00 0x00, f 1 0 0 1 1, 0x0000, 0x0102, [0, 1, 1, 1, 0, 0, 0, 0],
      [.opcodeFetch 0x0100 0xD6, .memRead 0x0101 0x01], 7⟩ := by decide
/-- V131 of 95_test_vectors.md. -/
theorem test_V131_sbi : seen (cpu (r 0x10 0x00 0x00 0x00 0x00 0x00 0x00) (f 0 0 0 0 1) 0x0000 0x0100) [0xDE, 0x0F]
    = some ⟨r 0x00 0x00 0x00 0x00 0x00 0x00 0x00, f 0 1 0 1 0, 0x0000, 0x0102, [0, 1, 1, 1, 0, 0, 0, 0],
      [.opcodeFetch 0x0100 0xDE, .memRead 0x0101 0x0F], 7⟩ := by decide
/-- V140 of 95_test_vectors.md. -/
theorem test_V140_anaR : seen (cpu (r 0xFC 0x00 0x0F 0x00 0x00 0x00 0x00) (f 0 0 0 0 1) 0x0000 0x0100) [0xA1]
    = some ⟨r 0x0C 0x00 0x0F 0x00 0x00 0x00 0x00, f 0 0 1 1 0, 0x0000, 0x0101, [0, 1, 1, 1, 0, 0, 0, 0],
      [.opcodeFetch 0x0100 0xA1], 4⟩ := by decide
/-- V141 of 95_test_vectors.md. -/
theorem test_V141_anaR : seen (cpu (r 0x00 0x00 0x00 0x00 0x00 0x00 0x00) (f 0 0 0 0 1) 0x0000 0x0100) [0xA7]
    = some ⟨r 0x00 0x00 0x00 0x00 0x00 0x00 0x00, f 0 1 1 1 0, 0x0000, 0x0101, [0, 1, 1, 1, 0, 0, 0, 0],
      [.opcodeFetch 0x0100 0xA7], 4⟩ := by decide
/-- V142 of 95_test_vectors.md. -/
theorem test_V142_xraR : seen (cpu (r 0x5B 0x00 0x00 0x00 0x00 0x00 0x00) (f 0 0 1 0 1) 0x0000 0x0100) [0xAF]
    = some ⟨r 0x00 0x00 0x00 0x00 0x00 0x00 0x00, f 0 1 0 1 0, 0x0000, 0x0101, [0, 1, 1, 1, 0, 0, 0, 0],
      [.opcodeFetch 0x0100 0xAF], 4⟩ := by decide
/-- V143 of 95_test_vectors.md. -/
theorem test_V143_xraR : seen (cpu (r 0xFF 0x0F 0x00 0x00 0x00 0x00 0x00) (f 0 0 0 0 1) 0x0000 0x0100) [0xA8]
    = some ⟨r 0xF0 0x0F 0x00 0x00 0x00 0x00 0x00, f 1 0 0 1 0, 0x0000, 0x0101, [0, 1, 1, 1, 0, 0, 0, 0],
      [.opcodeFetch 0x0100 0xA8], 4⟩ := by decide
/-- V144 of 95_test_vectors.md. -/
theorem test_V144_oraR : seen (cpu (r 0x33 0x00 0x0F 0x00 0x00 0x00 0x00) (f 0 0 1 0 1) 0x0000 0x0100) [0xB1]
    = some ⟨r 0x3F 0x00 0x0F 0x00 0x00 0x00 0x00, f 0 0 0 1 0, 0x0000, 0x0101, [0, 1, 1, 1, 0, 0, 0, 0],
      [.opcodeFetch 0x0100 0xB1], 4⟩ := by decide
/-- V145 of 95_test_vectors.md. -/
theorem test_V145_oraR : seen (cpu (r 0x80 0x00 0x00 0x00 0x00 0x00 0x00) (f 0 0 0 0 1) 0x0000 0x0100) [0xB7]
    = some ⟨r 0x80 0x00 0x00 0x00 0x00 0x00 0x00, f 1 0 0 0 0, 0x0000, 0x0101, [0, 1, 1, 1, 0, 0, 0, 0],
      [.opcodeFetch 0x0100 0xB7], 4⟩ := by decide
/-- V147 of 95_test_vectors.md. -/
theorem test_V147_cmpR : seen (cpu (r 0x02 0x00 0x00 0x00 0x05 0x00 0x00) (f 0 0 0 0 0) 0x0000 0x0100) [0xBB]
    = some ⟨r 0x02 0x00 0x00 0x00 0x05 0x00 0x00, f 1 0 0 0 1, 0x0000, 0x0101, [0, 1, 1, 1, 0, 0, 0, 0],
      [.opcodeFetch 0x0100 0xBB], 4⟩ := by decide
/-- V148 of 95_test_vectors.md. -/
theorem test_V148_cmpR : seen (cpu (r 0xE5 0xE5 0x00 0x00 0x00 0x00 0x00) (f 0 0 0 0 1) 0x0000 0x0100) [0xB8]
    = some ⟨r 0xE5 0xE5 0x00 0x00 0x00 0x00 0x00, f 0 1 1 1 0, 0x0000, 0x0101, [0, 1, 1, 1, 0, 0, 0, 0],
      [.opcodeFetch 0x0100 0xB8], 4⟩ := by decide
/-- V149 of 95_test_vectors.md. -/
theorem test_V149_anaM : seen (holding (cpu (r 0xF0 0x00 0x00 0x00 0x00 0x20 0x50) (f 0 0 0 0 0) 0x0000 0x0100) [(0x2050, 0x3C)]) [0xA6]
    = some ⟨r 0x30 0x00 0x00 0x00 0x00 0x20 0x50, f 0 0 1 1 0, 0x0000, 0x0101, [0, 1, 1, 1, 0, 0, 0, 0],
      [.opcodeFetch 0x0100 0xA6, .memRead 0x2050 0x3C], 7⟩ := by decide
/-- V150 of 95_test_vectors.md. -/
theorem test_V150_xraM : seen (holding (cpu (r 0xF0 0x00 0x00 0x00 0x00 0x20 0x50) (f 0 0 0 0 0) 0x0000 0x0100) [(0x2050, 0x3C)]) [0xAE]
    = some ⟨r 0xCC 0x00 0x00 0x00 0x00 0x20 0x50, f 1 0 0 1 0, 0x0000, 0x0101, [0, 1, 1, 1, 0, 0, 0, 0],
      [.opcodeFetch 0x0100 0xAE, .memRead 0x2050 0x3C], 7⟩ := by decide
/-- V151 of 95_test_vectors.md. -/
theorem test_V151_oraM : seen (holding (cpu (r 0x00 0x00 0x00 0x00 0x00 0x20 0x50) (f 0 0 0 0 1) 0x0000 0x0100) [(0x2050, 0x00)]) [0xB6]
    = some ⟨r 0x00 0x00 0x00 0x00 0x00 0x20 0x50, f 0 1 0 1 0, 0x0000, 0x0101, [0, 1, 1, 1, 0, 0, 0, 0],
      [.opcodeFetch 0x0100 0xB6, .memRead 0x2050 0x00], 7⟩ := by decide
/-- V152 of 95_test_vectors.md. -/
theorem test_V152_cmpM : seen (holding (cpu (r 0x00 0x00 0x00 0x00 0x00 0x20 0x50) (f 0 0 0 0 0) 0x0000 0x0100) [(0x2050, 0x01)]) [0xBE]
    = some ⟨r 0x00 0x00 0x00 0x00 0x00 0x20 0x50, f 1 0 0 1 1, 0x0000, 0x0101, [0, 1, 1, 1, 0, 0, 0, 0],
      [.opcodeFetch 0x0100 0xBE, .memRead 0x2050 0x01], 7⟩ := by decide
/-- V153 of 95_test_vectors.md. -/
theorem test_V153_ani : seen (cpu (r 0xC5 0x00 0x00 0x00 0x00 0x00 0x00) (f 0 0 0 0 1) 0x0000 0x0100) [0xE6, 0x3F]
    = some ⟨r 0x05 0x00 0x00 0x00 0x00 0x00 0x00, f 0 0 1 1 0, 0x0000, 0x0102, [0, 1, 1, 1, 0, 0, 0, 0],
      [.opcodeFetch 0x0100 0xE6, .memRead 0x0101 0x3F], 7⟩ := by decide
/-- V154 of 95_test_vectors.md. -/
theorem test_V154_xri : seen (cpu (r 0x3B 0x00 0x00 0x00 0x00 0x00 0x00) (f 0 0 0 0 1) 0x0000 0x0100) [0xEE, 0x81]
    = some ⟨r 0xBA 0x00 0x00 0x00 0x00 0x00 0x00, f 1 0 0 0 0, 0x0000, 0x0102, [0, 1, 1, 1, 0, 0, 0, 0],
      [.opcodeFetch 0x0100 0xEE, .memRead 0x0101 0x81], 7⟩ := by decide
/-- V155 of 95_test_vectors.md. -/
theorem test_V155_ori : seen (cpu (r 0xB5 0x00 0x00 0x00 0x00 0x00 0x00) (f 0 0 0 0 1) 0x0000 0x0100) [0xF6, 0x0F]
    = some ⟨r 0xBF 0x00 0x00 0x00 0x00 0x00 0x00, f 1 0 0 0 0, 0x0000, 0x0102, [0, 1, 1, 1, 0, 0, 0, 0],
      [.opcodeFetch 0x0100 0xF6, .memRead 0x0101 0x0F], 7⟩ := by decide
/-- V156 of 95_test_vectors.md. -/
theorem test_V156_cpi : seen (cpu (r 0x4A 0x00 0x00 0x00 0x00 0x00 0x00) (f 0 0 0 0 0) 0x0000 0x0100) [0xFE, 0x40]
    = some ⟨r 0x4A 0x00 0x00 0x00 0x00 0x00 0x00, f 0 0 1 1 0, 0x0000, 0x0102, [0, 1, 1, 1, 0, 0, 0, 0],
      [.opcodeFetch 0x0100 0xFE, .memRead 0x0101 0x40], 7⟩ := by decide
/-- V157 of 95_test_vectors.md. -/
theorem test_V157_cpi : seen (cpu (r 0x7F 0x00 0x00 0x00 0x00 0x00 0x00) (f 0 0 0 0 0) 0x0000 0x0100) [0xFE, 0x80]
    = some ⟨r 0x7F 0x00 0x00 0x00 0x00 0x00 0x00, f 1 0 1 1 1, 0x0000, 0x0102, [0, 1, 1, 1, 0, 0, 0, 0],
      [.opcodeFetch 0x0100 0xFE, .memRead 0x0101 0x80], 7⟩ := by decide
/-- V158 of 95_test_vectors.md. -/
theorem test_V158_rlc : seen (cpu (r 0xF2 0x00 0x00 0x00 0x00 0x00 0x00) (f 0 1 0 0 0) 0x0000 0x0100) [0x07]
    = some ⟨r 0xE5 0x00 0x00 0x00 0x00 0x00 0x00, f 0 1 0 0 1, 0x0000, 0x0101, [0, 1, 1, 1, 0, 0, 0, 0],
      [.opcodeFetch 0x0100 0x07], 4⟩ := by decide
/-- V159 of 95_test_vectors.md. -/
theorem test_V159_rrc : seen (cpu (r 0xF2 0x00 0x00 0x00 0x00 0x00 0x00) (f 0 0 0 0 1) 0x0000 0x0100) [0x0F]
    = some ⟨r 0x79 0x00 0x00 0x00 0x00 0x00 0x00, f 0 0 0 0 0, 0x0000, 0x0101, [0, 1, 1, 1, 0, 0, 0, 0],
      [.opcodeFetch 0x0100 0x0F], 4⟩ := by decide
/-- V160 of 95_test_vectors.md. -/
theorem test_V160_rrc : seen (cpu (r 0x01 0x00 0x00 0x00 0x00 0x00 0x00) (f 0 0 0 0 0) 0x0000 0x0100) [0x0F]
    = some ⟨r 0x80 0x00 0x00 0x00 0x00 0x00 0x00, f 0 0 0 0 1, 0x0000, 0x0101, [0, 1, 1, 1, 0, 0, 0, 0],
      [.opcodeFetch 0x0100 0x0F], 4⟩ := by decide
/-- V161 of 95_test_vectors.md. -/
theorem test_V161_ral : seen (cpu (r 0xB5 0x00 0x00 0x00 0x00 0x00 0x00) (f 0 0 0 0 0) 0x0000 0x0100) [0x17]
    = some ⟨r 0x6A 0x00 0x00 0x00 0x00 0x00 0x00, f 0 0 0 0 1, 0x0000, 0x0101, [0, 1, 1, 1, 0, 0, 0, 0],
      [.opcodeFetch 0x0100 0x17], 4⟩ := by decide
/-- V162 of 95_test_vectors.md. -/
theorem test_V162_ral : seen (cpu (r 0x00 0x00 0x00 0x00 0x00 0x00 0x00) (f 0 0 0 0 1) 0x0000 0x0100) [0x17]
    = some ⟨r 0x01 0x00 0x00 0x00 0x00 0x00 0x00, f 0 0 0 0 0, 0x0000, 0x0101, [0, 1, 1, 1, 0, 0, 0, 0],
      [.opcodeFetch 0x0100 0x17], 4⟩ := by decide
/-- V163 of 95_test_vectors.md. -/
theorem test_V163_rar : seen (cpu (r 0x6A 0x00 0x00 0x00 0x00 0x00 0x00) (f 0 0 0 0 1) 0x0000 0x0100) [0x1F]
    = some ⟨r 0xB5 0x00 0x00 0x00 0x00 0x00 0x00, f 0 0 0 0 0, 0x0000, 0x0101, [0, 1, 1, 1, 0, 0, 0, 0],
      [.opcodeFetch 0x0100 0x1F], 4⟩ := by decide
/-- V164 of 95_test_vectors.md. -/
theorem test_V164_rar : seen (cpu (r 0x01 0x00 0x00 0x00 0x00 0x00 0x00) (f 0 0 0 0 0) 0x0000 0x0100) [0x1F]
    = some ⟨r 0x00 0x00 0x00 0x00 0x00 0x00 0x00, f 0 0 0 0 1, 0x0000, 0x0101, [0, 1, 1, 1, 0, 0, 0, 0],
      [.opcodeFetch 0x0100 0x1F], 4⟩ := by decide
/-- V170 of 95_test_vectors.md. -/
theorem test_V170_cma : seen (cpu (r 0x51 0x00 0x00 0x00 0x00 0x00 0x00) (f 0 1 0 0 1) 0x0000 0x0100) [0x2F]
    = some ⟨r 0xAE 0x00 0x00 0x00 0x00 0x00 0x00, f 0 1 0 0 1, 0x0000, 0x0101, [0, 1, 1, 1, 0, 0, 0, 0],
      [.opcodeFetch 0x0100 0x2F], 4⟩ := by decide
/-- V171 of 95_test_vectors.md. -/
theorem test_V171_stc : seen (cpu (r 0x00 0x00 0x00 0x00 0x00 0x00 0x00) (f 0 0 0 0 0) 0x0000 0x0100) [0x37]
    = some ⟨r 0x00 0x00 0x00 0x00 0x00 0x00 0x00, f 0 0 0 0 1, 0x0000, 0x0101, [0, 1, 1, 1, 0, 0, 0, 0],
      [.opcodeFetch 0x0100 0x37], 4⟩ := by decide
/-- V172 of 95_test_vectors.md. -/
theorem test_V172_stc : seen (cpu (r 0x00 0x00 0x00 0x00 0x00 0x00 0x00) (f 0 0 0 0 1) 0x0000 0x0100) [0x37]
    = some ⟨r 0x00 0x00 0x00 0x00 0x00 0x00 0x00, f 0 0 0 0 1, 0x0000, 0x0101, [0, 1, 1, 1, 0, 0, 0, 0],
      [.opcodeFetch 0x0100 0x37], 4⟩ := by decide
/-- V173 of 95_test_vectors.md. -/
theorem test_V173_cmc : seen (cpu (r 0x00 0x00 0x00 0x00 0x00 0x00 0x00) (f 0 0 0 0 1) 0x0000 0x0100) [0x3F]
    = some ⟨r 0x00 0x00 0x00 0x00 0x00 0x00 0x00, f 0 0 0 0 0, 0x0000, 0x0101, [0, 1, 1, 1, 0, 0, 0, 0],
      [.opcodeFetch 0x0100 0x3F], 4⟩ := by decide
/-- V174 of 95_test_vectors.md. -/
theorem test_V174_cmc : seen (cpu (r 0x00 0x00 0x00 0x00 0x00 0x00 0x00) (f 0 0 0 0 0) 0x0000 0x0100) [0x3F]
    = some ⟨r 0x00 0x00 0x00 0x00 0x00 0x00 0x00, f 0 0 0 0 1, 0x0000, 0x0101, [0, 1, 1, 1, 0, 0, 0, 0],
      [.opcodeFetch 0x0100 0x3F], 4⟩ := by decide
/-- V175 of 95_test_vectors.md. -/
theorem test_V175_daa : seen (cpu (r 0x9B 0x00 0x00 0x00 0x00 0x00 0x00) (f 0 0 0 0 0) 0x0000 0x0100) [0x27]
    = some ⟨r 0x01 0x00 0x00 0x00 0x00 0x00 0x00, f 0 0 1 0 1, 0x0000, 0x0101, [0, 1, 1, 1, 0, 0, 0, 0],
      [.opcodeFetch 0x0100 0x27], 4⟩ := by decide
/-- V183 of 95_test_vectors.md. -/
theorem test_V183_daa : seen (cpu (r 0x9A 0x00 0x00 0x00 0x00 0x00 0x00) (f 0 0 0 0 0) 0x0000 0x0100) [0x27]
    = some ⟨r 0x00 0x00 0x00 0x00 0x00 0x00 0x00, f 0 1 1 1 1, 0x0000, 0x0101, [0, 1, 1, 1, 0, 0, 0, 0],
      [.opcodeFetch 0x0100 0x27], 4⟩ := by decide
/-- V184 of 95_test_vectors.md. -/
theorem test_V184_ei : seen (cpu (r 0x00 0x00 0x00 0x00 0x00 0x00 0x00) (f 0 0 0 0 0) 0x0000 0x0100) [0xFB]
    = some ⟨r 0x00 0x00 0x00 0x00 0x00 0x00 0x00, f 0 0 0 0 0, 0x0000, 0x0101, [1, 1, 1, 1, 0, 0, 1, 0],
      [.opcodeFetch 0x0100 0xFB], 4⟩ := by decide
/-- V185 of 95_test_vectors.md. -/
theorem test_V185_di : seen (withBits (cpu (r 0x00 0x00 0x00 0x00 0x00 0x00 0x00) (f 0 0 0 0 0) 0x0000 0x0100) 1 1 1 1 0 0 0 0) [0xF3]
    = some ⟨r 0x00 0x00 0x00 0x00 0x00 0x00 0x00, f 0 0 0 0 0, 0x0000, 0x0101, [0, 1, 1, 1, 0, 0, 0, 0],
      [.opcodeFetch 0x0100 0xF3], 4⟩ := by decide
/-- V186 of 95_test_vectors.md. -/
theorem test_V186_nop : seen (cpu (r 0x00 0x00 0x00 0x00 0x00 0x00 0x00) (f 0 0 0 0 0) 0x0000 0x0100) [0x00]
    = some ⟨r 0x00 0x00 0x00 0x00 0x00 0x00 0x00, f 0 0 0 0 0, 0x0000, 0x0101, [0, 1, 1, 1, 0, 0, 0, 0],
      [.opcodeFetch 0x0100 0x00], 4⟩ := by decide
/-- V187 of 95_test_vectors.md. -/
theorem test_V187_hlt : seen (cpu (r 0x00 0x00 0x00 0x00 0x00 0x00 0x00) (f 0 0 0 0 0) 0x0000 0x0100) [0x76]
    = some ⟨r 0x00 0x00 0x00 0x00 0x00 0x00 0x00, f 0 0 0 0 0, 0x0000, 0x0101, [0, 1, 1, 1, 0, 0, 0, 1],
      [.opcodeFetch 0x0100 0x76], 5⟩ := by decide
/-- V195 of 95_test_vectors.md. -/
theorem test_V195_sim : seen (cpu (r 0x0E 0x00 0x00 0x00 0x00 0x00 0x00) (f 0 0 0 0 0) 0x0000 0x0100) [0x30]
    = some ⟨r 0x0E 0x00 0x00 0x00 0x00 0x00 0x00, f 0 0 0 0 0, 0x0000, 0x0101, [0, 0, 1, 1, 0, 0, 0, 0],
      [.opcodeFetch 0x0100 0x30], 4⟩ := by decide
/-- V197 of 95_test_vectors.md. -/
theorem test_V197_sim : seen (withBits (cpu (r 0x1F 0x00 0x00 0x00 0x00 0x00 0x00) (f 0 0 0 0 0) 0x0000 0x0100) 0 0 0 0 1 0 0 0) [0x30]
    = some ⟨r 0x1F 0x00 0x00 0x00 0x00 0x00 0x00, f 0 0 0 0 0, 0x0000, 0x0101, [0, 1, 1, 1, 0, 0, 0, 0],
      [.opcodeFetch 0x0100 0x30], 4⟩ := by decide
/-! What the vectors above do not reach. -/

/-- V22 and R123: the flag byte of S = 0, Z = 1, AC = 0, P = 1, CY = 1 is 45H outside the three drawn bits. -/
theorem test_flag_byte : ∀ x5 x3 x1 : Bool, (f 0 1 0 1 1).byte x5 x3 x1 &&& 0xD5 = 0x45 := by decide

/-- V22: PUSH PSW lowers SP by 2 and draws three free bits. -/
theorem test_V22_pushPsw :
    (after (loaded { cpu (r 0x1F 0 0 0 0 0 0) (f 0 1 0 1 1) 0x502A 0x0100 with
        memMap := [{ base := 0x5028, size := 2, kind := .rom }] } 0x0100 [0xF5])).map
      (fun t => (t.sp, t.pc, t.draws)) = some (0x5028, 0x0101, 3) := by decide

/-- V190 of 95_test_vectors.md: SID high, RST 6.5 low, RST 5.5 high. -/
theorem test_V190_rim :
    (after (loaded { withBits idle 1 1 0 1 1 0 0 0 with
        pins := { idle.pins with sid := some true, rst55 := some true } } 0x0100 [0x20])).map (fun t => t.regs.a)
      = some 0xDD := by decide

/-- V193: the first RIM after a TRAP that found interrupts enabled. -/
theorem test_V193_rim :
    (after (loaded { withBits idle 0 0 0 0 0 0 0 0 with
        ctl := { (withBits idle 0 0 0 0 0 0 0 0).ctl with tie := true, tieV := true } } 0x0100 [0x20])).map
      (fun t => (t.regs.a, t.ctl.tieV)) = some (0x08, false) := by decide

/-- The cases of R253: A, AC, CY before, then A and the flags after. -/
theorem test_daa_cases :
    [((0x9B, 0, 0), 0x01, f 0 0 1 0 1), ((0x0F, 0, 0), 0x15, f 0 0 1 0 0), ((0x12, 1, 0), 0x18, f 0 0 0 1 0),
      ((0x99, 0, 0), 0x99, f 1 0 0 1 0), ((0x3C, 0, 1), 0xA2, f 1 0 1 0 1), ((0xA0, 0, 0), 0x00, f 0 1 0 1 1),
      ((0x00, 1, 1), 0x66, f 0 0 0 1 1), ((0x45, 0, 0), 0x45, f 0 0 0 0 0), ((0xFA, 0, 0), 0x60, f 0 0 1 1 1)].all
      (fun c : (Byte × Nat × Nat) × Byte × Flags =>
        decide (ran .daa (cpu (r c.1.1 0 0 0 0 0 0) (f 0 0 c.1.2.1 0 c.1.2.2) 0 0)
          = some (cpu (r c.2.1 0 0 0 0 0 0) c.2.2 0 0))) = true := by decide

/-- The third and fourth examples of R266, and V199: bit 4 and bit 3 together; no enable bit; SOD put back to 0. -/
theorem test_sim_parts :
    (ran .sim { withBits idle 0 0 0 0 1 0 0 0 with regs := r 0x1F 0 0 0 0 0 0 }
      = some { withBits idle 0 1 1 1 0 0 0 0 with regs := r 0x1F 0 0 0 0 0 0 })
    ∧ (ran .sim { withBits idle 0 0 1 0 1 0 0 0 with regs := r 0x87 0 0 0 0 0 0 }
      = some { withBits idle 0 0 1 0 1 0 0 0 with regs := r 0x87 0 0 0 0 0 0 })
    ∧ ran .sim { withBits idle 0 1 1 1 0 1 0 0 with regs := r 0x40 0 0 0 0 0 0 }
      = some { withBits idle 0 1 1 1 0 0 0 0 with regs := r 0x40 0 0 0 0 0 0, bus := [.sod false] } := by decide

/-- R267: SOD shows when it changes, and not when it is loaded with the level it has. -/
theorem test_sod_event :
    (ran .sim { idle with regs := r 0xC0 0 0 0 0 0 0 }).map (fun t => t.bus) = some [.sod true]
    ∧ (ran .sim { withBits idle 0 1 1 1 0 1 0 0 with regs := r 0xC0 0 0 0 0 0 0 }).map (fun t => t.bus) = some [] := by
  decide

/-- R265, D14: the first RIM after reset draws the three pins that nothing drives. -/
theorem test_rim_unconnected : (ran .rim State.reset).map (fun t => (t.draws, t.regs.b)) = some (3, 0x00) := by decide

/-- R46: a byte sent to ROM is lost, and the cycle is on the bus all the same. -/
theorem test_store_to_rom :
    (after (loaded { cpu (r 0x5A 0x40 0 0 0 0 0) (f 0 0 0 0 0) 0 0x0100 with
        memMap := [{ base := 0x4000, size := 1, kind := .rom }] } 0x0100 [0x02])).map
      (fun t => (t.peek 0x4000, t.bus.head?)) = some (0x00, some (.memWrite 0x4000 0x5A)) := by decide

/-! The boundary (95_test_vectors.md section 3). -/

/-- The pins TRAP, RST 7.5, RST 6.5, RST 5.5, INTR take levels. -/
def wired (s : State) (trap rst75 rst65 rst55 intr : Nat) : State :=
  { s with pins := { s.pins with
      trap := trap == 1, rst75 := rst75 == 1, rst65 := some (rst65 == 1), rst55 := some (rst55 == 1)
      intr := intr == 1 } }

/-- TRAPFF set. -/
def trapped (s : State) : State := { s with ctl := { s.ctl with trapFF := true } }

/-- What one boundary leaves. -/
structure Outcome where
  pc : Word
  sp : Word
  bits : List Nat
  /-- TRAPFF, TIE, TIEV. -/
  trapBits : List Bool
  bus : List BusEvent
deriving DecidableEq, Repr

/-- What one step from a boundary state leaves. -/
def outcome (s : State) : Option Outcome :=
  (after s).map fun t =>
    { pc := t.pc, sp := t.sp, bits := bits t, trapBits := [t.ctl.trapFF, t.ctl.tie, t.ctl.tieV], bus := t.bus.reverse }

/-- The NOP at 0100H ran. -/
def nopRan (b : List Nat) (t : List Bool) : Option Outcome := some ⟨0x0101, 0x2000, b, t, [.opcodeFetch 0x0100 0]⟩

/-- A restart was taken to this address from `pc` = 0100H. -/
def restarted (a : Word) (b : List Nat) (t : List Bool) : Option Outcome :=
  some ⟨a, 0x1FFE, b, t, [.idleAck, .memWrite 0x1FFF 0x01, .memWrite 0x1FFE 0x00]⟩

/-- B1 to B4: TRAP, with IE 0 and 1; the pulse too short; the level without an edge. -/
theorem test_B1_to_B4_trap :
    outcome (trapped (wired idle 1 0 0 0 0)) = restarted 0x0024 [0, 1, 1, 1, 0, 0, 0, 0] [false, false, true]
    ∧ outcome (trapped (wired (withBits idle 1 1 1 1 0 0 0 0) 1 0 0 0 0))
      = restarted 0x0024 [0, 1, 1, 1, 0, 0, 0, 0] [false, true, true]
    ∧ outcome (trapped (withBits idle 1 1 1 1 0 0 0 0)) = nopRan [1, 1, 1, 1, 0, 0, 0, 0] [true, false, false]
    ∧ outcome (wired idle 1 0 0 0 0) = nopRan [0, 1, 1, 1, 0, 0, 0, 0] [false, false, false] := by decide

/-- B5 to B7: RST 7.5 accepted, masked, disabled. -/
theorem test_B5_to_B7_rst75 :
    outcome (withBits idle 1 1 1 0 1 0 0 0) = restarted 0x003C [0, 1, 1, 0, 0, 0, 0, 0] [false, false, false]
    ∧ outcome (withBits idle 1 1 1 1 1 0 0 0) = nopRan [1, 1, 1, 1, 1, 0, 0, 0] [false, false, false]
    ∧ outcome (withBits idle 0 1 1 0 1 0 0 0) = nopRan [0, 1, 1, 0, 1, 0, 0, 0] [false, false, false] := by decide

/-- B8 to B10, B20: RST 6.5, RST 5.5, RST 5.5 masked, INTR disabled. -/
theorem test_B8_to_B10_levels :
    outcome (wired (withBits idle 1 1 0 1 0 0 0 0) 0 0 1 0 0) = restarted 0x0034 [0, 1, 0, 1, 0, 0, 0, 0] [false, false, false]
    ∧ outcome (wired (withBits idle 1 0 1 1 0 0 0 0) 0 0 0 1 0)
      = restarted 0x002C [0, 0, 1, 1, 0, 0, 0, 0] [false, false, false]
    ∧ outcome (wired (withBits idle 1 1 1 1 0 0 0 0) 0 0 0 1 0) = nopRan [1, 1, 1, 1, 0, 0, 0, 0] [false, false, false]
    ∧ outcome (wired idle 0 0 0 0 1) = nopRan [0, 1, 1, 1, 0, 0, 0, 0] [false, false, false] := by decide

/-- B11 to B15: the order TRAP, 7.5, 6.5, 5.5, and a masked 7.5 that stays pending. -/
theorem test_B11_to_B15_priority :
    outcome (trapped (wired (withBits idle 1 0 0 0 1 0 0 0) 1 0 1 1 1))
      = restarted 0x0024 [0, 0, 0, 0, 1, 0, 0, 0] [false, true, true]
    ∧ outcome (wired (withBits idle 1 0 0 0 1 0 0 0) 0 0 1 1 1) = restarted 0x003C [0, 0, 0, 0, 0, 0, 0, 0] [false, false, false]
    ∧ outcome (wired (withBits idle 1 0 0 0 0 0 0 0) 0 0 1 1 1) = restarted 0x0034 [0, 0, 0, 0, 0, 0, 0, 0] [false, false, false]
    ∧ outcome (wired (withBits idle 1 0 0 0 0 0 0 0) 0 0 0 1 1) = restarted 0x002C [0, 0, 0, 0, 0, 0, 0, 0] [false, false, false]
    ∧ outcome (wired (withBits idle 1 0 1 1 1 0 0 0) 0 0 0 1 0)
      = restarted 0x002C [0, 0, 1, 1, 1, 0, 0, 0] [false, false, false] := by decide

/-- B16, B17: INTR with RST 7 and with CALL 3000H supplied. -/
theorem test_B16_B17_intr :
    outcome (answered (wired (withBits idle 1 1 1 1 0 0 0 0) 0 0 0 0 1) [0xFF])
      = some ⟨0x0038, 0x1FFE, [0, 1, 1, 1, 0, 0, 0, 0], [false, false, false],
          [.intAck 0xFF, .memWrite 0x1FFF 0x01, .memWrite 0x1FFE 0x00]⟩
    ∧ outcome (answered (wired (withBits idle 1 1 1 1 0 0 0 0) 0 0 0 0 1) [0xCD, 0x00, 0x30])
      = some ⟨0x3000, 0x1FFE, [0, 1, 1, 1, 0, 0, 0, 0], [false, false, false],
          [.intAck 0xCD, .intAck 0x00, .intAck 0x30, .memWrite 0x1FFF 0x01, .memWrite 0x1FFE 0x00]⟩ := by decide +kernel

/-- B18: a NOP supplied to INTA is refused. -/
theorem test_B18_intr_refused :
    refusedInta (step (answered (wired (withBits idle 1 1 1 1 0 0 0 0) 0 0 0 0 1) [0x00]))
      = some 0x00 := by decide

/-- R80: a step over 08H is refused by name. -/
theorem test_step_undefined_opcode : refusedOpcode (step (loaded idle 0x0100 [0x08])) = some 0x08 := by decide

/-- B19, B24: EIINH holds INTR off for one boundary and does not hold TRAP off. -/
theorem test_B19_B24_eiinh :
    outcome (wired (withBits idle 1 1 1 1 0 0 1 0) 0 0 0 0 1) = nopRan [1, 1, 1, 1, 0, 0, 0, 0] [false, false, false]
    ∧ outcome (trapped (wired (withBits idle 1 1 1 1 0 0 1 0) 1 0 0 0 0))
      = restarted 0x0024 [0, 1, 1, 1, 0, 0, 0, 0] [false, true, true] := by decide

/-- B21 to B23: in the halt state, nothing to accept; RST 5.5; TRAP. -/
theorem test_B21_to_B23_halted :
    outcome (wired { withBits idle 1 1 1 1 0 0 0 1 with pc := 0x0151 } 0 0 0 1 0)
      = some ⟨0x0151, 0x2000, [1, 1, 1, 1, 0, 0, 0, 1], [false, false, false], []⟩
    ∧ outcome (wired { withBits idle 1 0 1 1 0 0 0 1 with pc := 0x0151 } 0 0 0 1 0)
      = some ⟨0x002C, 0x1FFE, [0, 0, 1, 1, 0, 0, 0, 0], [false, false, false],
          [.idleAck, .memWrite 0x1FFF 0x01, .memWrite 0x1FFE 0x51]⟩
    ∧ outcome (trapped (wired { withBits idle 0 1 1 1 0 0 0 1 with pc := 0x0151 } 1 0 0 0 0))
      = some ⟨0x0024, 0x1FFE, [0, 1, 1, 1, 0, 0, 0, 0], [false, false, true],
          [.idleAck, .memWrite 0x1FFF 0x01, .memWrite 0x1FFE 0x51]⟩ := by decide

/-! Reset and hold. -/

/-- X1, X3: RESET IN while running with every bit set, and while held. -/
theorem test_X1_X3_reset :
    (after { trapped (withBits idle 1 0 0 0 1 1 1 1) with
        env := [[.resetIn]], ctl := { (trapped (withBits idle 1 0 0 0 1 1 1 1)).ctl with hldaFF := true, tieV := true } }).map
      (fun t => (t.pc, bits t, [t.ctl.trapFF, t.ctl.tieV, t.ctl.hldaFF], t.bus))
      = some (0x0000, [0, 1, 1, 1, 0, 0, 0, 0], [false, false, false], [.sod false, .resetOut]) := by decide

/-- R353: RESET IN where RAM at 2000H loses its contents and RAM at 2001H keeps them; ROM keeps its byte in any case. -/
theorem test_reset_loses_ram :
    let s : State := { holding idle [(0x2000, 0x11), (0x2001, 0x22), (0x2002, 0x33)] with
      memMap := [{ base := 0x2000, size := 1, kind := .ram, losesAtReset := true },
                 { base := 0x2002, size := 1, kind := .rom, losesAtReset := true }] }
    s.resetMemory.peek 0x2000 = Config.drawByte 0x2000 ∧ s.resetMemory.peek 0x2001 = 0x22
      ∧ s.resetMemory.peek 0x2002 = 0x33 := by
  refine ⟨?_, ?_, ?_⟩ <;> rw [State.peek_resetMemory] <;> rfl

/-- X3: a HOLD that is still high after RESET IN is granted again at the end of the first machine cycle. -/
theorem test_X3_hold_after_reset :
    (after { State.reset with pins := { State.reset.pins with hold := true }, env := [[], [], []] }).map
      (fun t => (t.pc, t.ctl.hldaFF, t.bus)) = some (0x0001, true, [.opcodeFetch 0x0000 0x00]) := by decide

/-- R58, R335: between the two writes of PUSH H another master, which has the bus, writes the byte that PUSH stores first;
the CPU goes on when HOLD is removed. -/
theorem test_hold_inside_push :
    (after (loaded { cpu (r 0 0 0 0 0 0x20 0x50) (f 0 0 0 0 0) 0x3000 0x0100 with
        env := [[], [], [.pin .hold true], [.master (.memWrite 0x2FFF 0x99)], [.pin .hold false]] } 0x0100 [0xE5])).map
      (fun t => (t.peek 0x2FFF, t.peek 0x2FFE, t.ctl.hldaFF, t.bus.reverse))
      = some (0x99, 0x50, false, [.opcodeFetch 0x0100 0xE5, .memWrite 0x2FFF 0x20, .master (.memWrite 0x2FFF 0x99),
          .memWrite 0x2FFE 0x50]) := by decide

/-- R352: RESET IN at the end of the first write of PUSH H abandons the second. -/
theorem test_reset_inside_push :
    (after (loaded { cpu (r 0 0 0 0 0 0x20 0x50) (f 0 0 0 0 0) 0x3000 0x0100 with
        env := [[], [], [.resetIn]] } 0x0100 [0xE5])).map
      (fun t => (t.pc, t.bus.reverse))
      = some (0x0000, [.opcodeFetch 0x0100 0xE5, .memWrite 0x2FFF 0x20, .resetOut]) := by decide

/-- R46, R59, R352: RESET IN in the hold after the first write of PUSH H interrupts no write: the byte the other master wrote
over it stands. -/
theorem test_reset_in_hold_after_write :
    (after (loaded { cpu (r 0 0 0 0 0 0x20 0x50) (f 0 0 0 0 0) 0x3000 0x0100 with
        env := [[], [], [.pin .hold true], [.master (.memWrite 0x2FFF 0x99)], [.resetIn]] } 0x0100 [0xE5])).map
      (fun t => (t.pc, t.peek 0x2FFF))
      = some (0x0000, 0x99) := by decide

/-- R58, R322, R330: RST 5.5 high in one slot only, in which the CPU is halted and held, is accepted; the entry waits for the
bus. -/
theorem test_request_sampled_in_held_halt :
    (after { withBits idle 1 0 1 1 0 0 0 1 with
        ctl := { (withBits idle 1 0 1 1 0 0 0 1).ctl with hldaFF := true }
        pins := { idle.pins with hold := true }
        platform := { idle.platform with ports := [⟨0, 256, [], some 0x77⟩] }
        env := [[.pin .rst55 true], [.pin .rst55 false, .master (.ioRead 0x01)], [.pin .hold false]] }).map
      (fun t => (t.pc, t.ctl.halted, t.ctl.hldaFF, t.bus.reverse))
      = some (0x002C, false, false, [.master (.ioRead 0x01 0x77), .idleAck, .memWrite 0x1FFF 0x01, .memWrite 0x1FFE 0x00]) := by
  decide

/-- R5, R6, R47, D7: each port has a device of its own, and the INTA responder another: a read of port 21H finds what stands
there, for ever, and leaves port 22H and the responder as they are. -/
theorem test_ports_and_responder_apart :
    (after (loaded { cpu (r 0 0 0 0 0 0 0) (f 0 0 0 0 0) 0x2000 0x0100 with
        platform := { ports := [⟨0x21, 1, [], some 0x11⟩, ⟨0x22, 1, [some 0x22], none⟩], devices := []
                      responder := ⟨some 0xC7, none, none⟩ } } 0x0100 [0xDB, 0x21])).map
      (fun t => (t.regs.a, t.platform.ports, t.platform.responder.first))
      = some (0x11, [⟨0x21, 1, [], some 0x11⟩, ⟨0x22, 1, [some 0x22], none⟩], some 0xC7) := by decide

/-- R58, R59: between the two writes of PUSH H the other master reads what the first one wrote, and what is at a port. -/
theorem test_master_reads :
    (after (loaded { cpu (r 0 0 0 0 0 0x20 0x50) (f 0 0 0 0 0) 0x3000 0x0100 with
        platform := { ports := [⟨0x21, 1, [some 0x11], none⟩], devices := [], responder := ⟨none, none, none⟩ }
        env := [[], [], [.pin .hold true], [.master (.memRead 0x2FFF), .master (.ioRead 0x21)], [.pin .hold false]] }
        0x0100 [0xE5])).map (fun t => (t.bus.reverse, t.platform.ports))
      = some ([.opcodeFetch 0x0100 0xE5, .memWrite 0x2FFF 0x20, .master (.memRead 0x2FFF 0x20),
          .master (.ioRead 0x21 0x11), .memWrite 0x2FFE 0x50], [⟨0x21, 1, [], none⟩]) := by decide

/-! Timing and pins. -/

/-- W5 of 95_test_vectors.md: Table 7 at the conditions of Table 6, and at 320 ns with one WAIT state. -/
theorem test_W5_table7 :
    [BusTime.tAL, .tLA, .tLL, .tLCK, .tLC, .tAD, .tRD, .tRAE, .tCA, .tDW, .tWD, .tCC, .tCL, .tARY, .tHACK, .tHABF,
      .tHABE, .tAC, .t1, .t2, .tRV, .tLDR].all
      (fun q => decide ((q.ns .i8085A 320 0, q.ns .i8085A2 200 0) = q.table6)) = true
    ∧ BusTime.tAD.ns .i8085A 320 1 = 895 ∧ BusTime.tRD.ns .i8085A 320 1 = 620 := by decide

/-- W2: the I/O WRITE of OUT F8H carries the port on both halves of the address, with IO/M high, S1 S0 = 0 1, WR low. -/
theorem test_W2_out_lines :
    (BusEvent.ioWrite 0xF8 0x80).addressLines = some 0xF8F8
    ∧ (BusEvent.ioWrite 0xF8 0x80).lines
      = some { iom := .high, s1 := .low, s0 := .high, rd := .high, wr := .low, inta := .high } := by decide

/-- R351: RESET OUT is high while the CPU is being reset, which is TRESET. -/
theorem test_resetOut :
    BusEvent.resetOut.resetOutPin = true ∧ TState.resetOut .tReset = true ∧ TState.resetOut .tHalt = false
    ∧ BusEvent.resetOut.lines = some resetLines := by decide

/-! For each statement with hypotheses, states and operands that meet all of them together, at the ends of the ranges and for
each clause. -/

/-- Every register at the end of its range. -/
def full : State := cpu (r 0xFF 0xFF 0xFF 0xFF 0xFF 0xFF 0xFF) (f 1 1 1 1 1) 0xFFFF 0xFFFF

/-- One kind of memory everywhere. -/
def platform (s : State) (k : MemKind) : State := { s with memMap := [{ base := 0, size := 65536, kind := k }] }

/-- HOLD requested and granted, with one slot of the outside still to come. -/
def givenAway (s : State) : State :=
  { s with pins := { s.pins with hold := true }, ctl := { s.ctl with hldaFF := true }, env := [[]] }

theorem witness_Undisturbed : idle.Undisturbed ∧ full.Undisturbed ∧ State.reset.Undisturbed := by decide

/-- RAM, ROM, a device and nothing at the address stored to. -/
theorem witness_ByteStores :
    (full.Undisturbed ∧ full.kindAt full.hl = .ram)
    ∧ ((platform full .rom).Undisturbed ∧ (platform full .rom).kindAt 0xFFFF = .rom)
    ∧ ((platform idle .device).Undisturbed ∧ (platform idle .device).kindAt 0x0000 = .device)
    ∧ ((platform idle .absent).Undisturbed ∧ (platform idle .absent).kindAt 0x0000 = .absent) := by decide

theorem witness_ByteLoads :
    full.Undisturbed ∧ (answered (platform full .device) [0x5A]).Undisturbed ∧ (platform idle .absent).Undisturbed := by
  decide

theorem witness_HlDirect : idle.Undisturbed ∧ full.kindAt 0xFFFF = .ram ∧ full.kindAt (0xFFFF + 1) = .ram := by decide

/-- SP at both ends: the two addresses of a push wrap. -/
theorem witness_StackOperations :
    full.Undisturbed ∧ State.reset.Undisturbed ∧ State.reset.sp - 1 = 0xFFFF ∧ full.sp + 1 = 0x0000 := by decide

theorem witness_PushPairs : State.reset.Undisturbed ∧ full.Undisturbed := by decide

theorem witness_PushPsw : State.reset.Undisturbed ∧ full.Undisturbed ∧ full.flags = f 1 1 1 1 1 := by decide

theorem witness_Pops : (holding full [(0xFFFF, 0xD7), (0x0000, 0x99)]).Undisturbed ∧ idle.Undisturbed := by decide

theorem witness_ExchangeStackTop : full.Undisturbed ∧ (platform full .rom).Undisturbed := by decide

/-- Every condition false, every condition true. -/
theorem witness_Calls :
    idle.Undisturbed ∧ idle.flags = f 0 0 0 0 0 ∧ full.Undisturbed ∧ full.flags = f 1 1 1 1 1 := by decide

theorem witness_Returns :
    idle.Undisturbed ∧ idle.flags = f 0 0 0 0 0 ∧ full.Undisturbed ∧ full.flags = f 1 1 1 1 1 := by decide

theorem witness_RestartInstruction : (0 < 8 ∧ 7 < 8) ∧ idle.Undisturbed ∧ full.Undisturbed := by decide

theorem witness_CallThenReturn :
    (State.reset.Undisturbed ∧ State.reset.kindAt (State.reset.sp - 1) = .ram ∧ State.reset.kindAt (State.reset.sp - 2) = .ram)
    ∧ (full.Undisturbed ∧ full.kindAt (full.sp - 1) = .ram ∧ full.kindAt (full.sp - 2) = .ram) := by decide

/-- A device at ports 20H and 21H. -/
def twoPorts : Device := { base := 0x20, size := 2, coming := [], after := some 0x5A }

theorem witness_InputOutput :
    ((answered idle [0x5A]).Undisturbed ∧ (takeAnswer (answered idle [0x5A]).platform.ports 0xFF).1 = some 0x5A)
    ∧ (idle.Undisturbed ∧ (takeAnswer idle.platform.ports 0x00).1 = none)
    ∧ ((twoPorts.base ≤ 0x20 ∧ 0x20 < twoPorts.base + twoPorts.size) ∧ (0x21 < twoPorts.base + twoPorts.size)
      ∧ (0x1F < twoPorts.base ∧ twoPorts.base + twoPorts.size ≤ 0x22))
    ∧ ∀ d ∈ [twoPorts], ¬(d.holds (0x21 : Byte).toNat = true ∧ d.holds (0x22 : Byte).toNat = true) := by
  decide

theorem witness_ReadInterruptMask :
    (wired idle 0 0 1 0 0).pins.rst65 = some true ∧ idle.pins.sid = some false ∧ idle.pins.rst55 = some false
    ∧ State.reset.pins.sid = none := by decide

theorem witness_CountMemory :
    (holding full [(0xFFFF, 0xFF)]).Undisturbed ∧ (platform idle .rom).Undisturbed := by decide

theorem witness_AddSubMemory : (holding full [(0xFFFF, 0xFF)]).Undisturbed ∧ idle.Undisturbed := by decide

theorem witness_Compares : (holding full [(0xFFFF, 0xFF)]).Undisturbed ∧ idle.Undisturbed := by decide

/-- The first and the last of the four pairs. -/
theorem witness_DoubleAdd :
    full.Undisturbed
    ∧ (Instr.dadB, joinBytes full.regs.b full.regs.c) ∈ [(Instr.dadB, joinBytes full.regs.b full.regs.c),
        (.dadD, joinBytes full.regs.d full.regs.e), (.dadH, joinBytes full.regs.h full.regs.l), (.dadSp, full.sp)]
    ∧ (Instr.dadSp, full.sp) ∈ [(Instr.dadB, joinBytes full.regs.b full.regs.c),
        (.dadD, joinBytes full.regs.d full.regs.e), (.dadH, joinBytes full.regs.h full.regs.l), (.dadSp, full.sp)] := by
  decide

/-- An operation of each of the three clauses. -/
theorem witness_LogicalOperations :
    (Instr.anaR .b, full.regs.a &&& full.regs.get .b, true) ∈ [(Instr.anaR .b, full.regs.a &&& full.regs.get .b, true),
        (.xraR .b, full.regs.a ^^^ full.regs.get .b, false), (.oraR .b, full.regs.a ||| full.regs.get .b, false)]
    ∧ (Instr.xri 0x0F, full.regs.a ^^^ 0x0F, false) ∈ [(Instr.ani 0x0F, full.regs.a &&& 0x0F, true),
        (.xri 0x0F, full.regs.a ^^^ 0x0F, false), (.ori 0x0F, full.regs.a ||| 0x0F, false)]
    ∧ full.Undisturbed
    ∧ (Instr.oraM, full.regs.a ||| full.busByte full.hl, false) ∈ [(Instr.anaM, full.regs.a &&& full.busByte full.hl, true),
        (.xraM, full.regs.a ^^^ full.busByte full.hl, false), (.oraM, full.regs.a ||| full.busByte full.hl, false)] := by
  decide

/-- 99 + 99 with the carry in, and 0 + 0; the source register is A in the second. -/
theorem witness_DecimalAddition :
    (99 < 100 ∧ (cpu (r 0x99 0x99 0 0 0 0 0) (f 0 0 0 0 1) 0 0).regs.a = bcd 99
      ∧ (cpu (r 0x99 0x99 0 0 0 0 0) (f 0 0 0 0 1) 0 0).regs.get .b = bcd 99)
    ∧ (0 < 100 ∧ idle.regs.a = bcd 0 ∧ idle.regs.get .a = bcd 0) := by decide

/-- An instruction that writes nothing R36 names, with a next state. -/
theorem witness_InstructionFrame :
    (∃ t, exec .nop idle = .next t) ∧ (∀ x : Reg, x ∉ regsWritten .nop) ∧ writesSzap .nop = false ∧ writesCy .nop = false
      ∧ writesSp .nop = false ∧ ∃ t, exec .popPsw full = .next t :=
  ⟨⟨_, rfl⟩, fun _ h => (List.not_mem_nil h).elim, rfl, rfl, rfl, ⟨_, rfl⟩⟩

theorem witness_ControlFrame :
    (∃ t, exec .nop { full with ctl := { full.ctl with r75 := true, trapFF := true } } = .next t)
    ∧ (Instr.nop ≠ .ei ∧ Instr.nop ≠ .di ∧ Instr.nop ≠ .sim ∧ Instr.nop ≠ .hlt ∧ Instr.nop ≠ .rim)
    ∧ (∃ t, exec .sim idle = .next t) ∧ ∃ t, exec .hlt idle = .next t :=
  ⟨⟨_, rfl⟩, by decide, ⟨_, rfl⟩, ⟨_, rfl⟩⟩

/-- The steps of the second clause: TRAPFF cleared by acceptance, a mask and SOD changed by SIM, both by reset. -/
theorem witness_ControlFrame_steps :
    (after (trapped (wired idle 1 0 0 0 0))).map (fun t => ((trapped idle).ctl.trapFF, t.ctl.trapFF)) = some (true, false)
    ∧ (after (loaded { idle with regs := r 0xC8 0 0 0 0 0 0 } 0x0100 [0x30])).map
        (fun t => (t.ctl.m55, t.ctl.m65, t.ctl.m75, t.ctl.sod)) = some (false, false, false, true)
    ∧ (after { trapped (withBits idle 0 0 0 0 0 1 0 0) with env := [[.resetIn]] }).map
        (fun t => (t.ctl.trapFF, t.ctl.m55, t.ctl.sod)) = some (false, true, false) := by decide

/-- Each source, TRAP both with and without a saved status that is still valid, in and out of the halt state. -/
theorem witness_RestartEntry :
    ((trapped (wired idle 1 0 0 0 0)).Undisturbed
      ∧ (trapped (wired idle 1 0 0 0 0)).recognized = some (.restart .trap))
    ∧ { trapped (wired idle 1 0 0 0 0) with ctl := { (trapped idle).ctl with tieV := true } }.recognized
      = some (.restart .trap)
    ∧ ((withBits idle 1 1 1 0 1 0 0 1).Undisturbed
      ∧ (withBits idle 1 1 1 0 1 0 0 1).recognized = some (.restart .rst75))
    ∧ ((wired (withBits idle 1 1 0 1 0 0 0 0) 0 0 1 0 0).Undisturbed
      ∧ (wired (withBits idle 1 1 0 1 0 0 0 0) 0 0 1 0 0).recognized = some (.restart .rst65))
    ∧ ((wired (withBits idle 1 0 1 1 0 0 0 0) 0 0 0 1 0).Undisturbed
      ∧ (wired (withBits idle 1 0 1 1 0 0 0 0) 0 0 0 1 0).recognized = some (.restart .rst55)) := by decide

/-- With interrupts enabled before, and disabled. -/
theorem witness_FirstRimAfterTrap :
    ((trapped (wired (withBits idle 1 1 1 1 0 0 0 0) 1 0 0 0 0)).Undisturbed
      ∧ (trapped (wired (withBits idle 1 1 1 1 0 0 0 0) 1 0 0 0 0)).ctl.tieV = false
      ∧ (trapped (wired (withBits idle 1 1 1 1 0 0 0 0) 1 0 0 0 0)).recognized = some (.restart .trap))
    ∧ ((trapped (wired idle 1 0 0 0 0)).Undisturbed ∧ (trapped (wired idle 1 0 0 0 0)).ctl.tieV = false
      ∧ (trapped (wired idle 1 0 0 0 0)).recognized = some (.restart .trap)) := by decide

/-- INTR recognized, with an answer. -/
def intr (vs : List Byte) : State := answered (wired (withBits idle 1 1 1 1 0 0 0 0) 0 0 0 0 1) vs

/-- RST 0 and RST 7 supplied. -/
theorem witness_IntrWithRestart :
    ((intr [0xC7]).Undisturbed ∧ (intr [0xC7]).recognized = some .intr
      ∧ (State.readResponder { intr [0xC7] with draws := (intr [0xC7]).draws + (intr [0xC7]).ctl.tieV.toNat } .first).1 &&& 0xC7
        = 0xC7)
    ∧ ((intr [0xFF, 0x00]).Undisturbed ∧ (intr [0xFF, 0x00]).recognized = some .intr
      ∧ ((intr [0xFF, 0x00]).readResponder .first).1 &&& 0xC7 = 0xC7 ∧ (intr [0xFF, 0x00]).ctl.tieV = false) := by decide

/-- CALL FFFFH supplied; NOP, which is neither RST n nor CALL; and INTA cycles that nothing answers. -/
theorem witness_IntrWithCallOrOther :
    ((intr [0xCD, 0xFF, 0xFF]).Undisturbed ∧ (intr [0xCD, 0xFF, 0xFF]).recognized = some .intr
      ∧ ((intr [0xCD, 0xFF, 0xFF]).readResponder .first).1 = 0xCD)
    ∧ ((intr [0x00]).Undisturbed ∧ (intr [0x00]).recognized = some .intr ∧ (intr [0x00]).platform.responder.first = some 0x00
      ∧ ((intr [0x00]).readResponder .first).1 &&& 0xC7 ≠ 0xC7 ∧ ((intr [0x00]).readResponder .first).1 ≠ 0xCD)
    ∧ ((intr []).Undisturbed ∧ (intr []).recognized = some .intr ∧ (intr []).platform.responder.first = none
      ∧ (intr []).platform.responder.third = none) := by decide

/-- EI with INTR high; DI with TRAP high. -/
theorem witness_EiDelay :
    (∃ t, exec .ei (intr [0xFF]) = .next t ∧ ¬(t.ctl.trapFF = true ∧ t.pins.trap = true) ∧ t.Undisturbed
      ∧ t.ctl.halted = false ∧ t.pins.intr = true)
    ∧ ∃ t, exec .di (trapped (wired full 1 0 0 0 0)) = .next t ∧ t.recognized = some (.restart .trap) :=
  ⟨⟨_, rfl, by decide⟩, ⟨_, rfl, by decide⟩⟩

theorem witness_OnlyEiEnables :
    (after (loaded idle 0x0100 [0xFB])).map (fun t => (idle.ctl.ie, t.ctl.ie)) = some (false, true) := by decide

/-- An edge; and R75 cleared by acceptance, by SIM and by reset. -/
theorem witness_Rst75Latch :
    idle.pins.rst75 = false
    ∧ (withBits idle 1 1 1 0 1 0 0 0).Undisturbed
    ∧ (withBits idle 1 1 1 0 1 0 0 0).recognized = some (.restart .rst75)
    ∧ (after (withBits idle 1 1 1 0 1 0 0 0)).map (fun t => t.ctl.r75) = some false
    ∧ (0x10 : Byte).getLsbD 4 = true
    ∧ (after (loaded { withBits idle 0 1 1 1 1 0 0 0 with regs := r 0x10 0 0 0 0 0 0 } 0x0100 [0x30])).map
        (fun t => t.ctl.r75) = some false
    ∧ (after { withBits idle 0 1 1 1 1 0 0 0 with env := [[.resetIn]] }).map (fun t => t.ctl.r75) = some false := by decide

/-- Halted with every maskable request present and disabled; held; both. -/
theorem witness_HaltAndHoldWait :
    ((wired (withBits idle 0 0 0 0 1 0 0 1) 0 0 1 1 1).Undisturbed
      ∧ (wired (withBits idle 0 0 0 0 1 0 0 1) 0 0 1 1 1).ctl.halted = true
      ∧ (wired (withBits idle 0 0 0 0 1 0 0 1) 0 0 1 1 1).recognized = none)
    ∧ ((givenAway idle).boundarySlot.resetting = false ∧ (givenAway idle).boundarySlot.ctl.hldaFF = true
      ∧ (givenAway idle).boundarySlot.recognized = none ∧ (givenAway idle).boundarySlot.ctl.halted = false)
    ∧ ({ withBits idle 0 0 0 0 0 0 0 1 with env := [[.pin .hold true]] }.boundarySlot.resetting = false
      ∧ { withBits idle 0 0 0 0 0 0 0 1 with env := [[.pin .hold true]] }.boundarySlot.ctl.hldaFF = true
      ∧ { withBits idle 0 0 0 0 0 0 0 1 with env := [[.pin .hold true]] }.boundarySlot.recognized = none) := by decide

/-- RST 5.5 and INTR rise in the slot in which the CPU, halted, is given away to the other master. -/
theorem witness_HaltAndHoldWait_accept :
    ({ withBits idle 1 0 1 1 0 0 0 1 with env := [[.pin .hold true, .pin .rst55 true]] }.boundarySlot.resetting = false
      ∧ { withBits idle 1 0 1 1 0 0 0 1 with env := [[.pin .hold true, .pin .rst55 true]] }.boundarySlot.recognized
        = some (.restart .rst55))
    ∧ { withBits idle 1 0 1 1 0 0 0 1 with env := [[.pin .hold true, .pin .intr true]] }.boundarySlot.recognized
        = some .intr := by decide

/-- A machine cycle that ends with HOLD high; a boundary at which HOLD rises, halted and not. -/
theorem witness_PinEdges :
    ((State.memRead { idle with env := [[.pin .hold true]] } 0x0000).2.resetting = false
      ∧ (State.memRead { idle with env := [[.pin .hold true]] } 0x0000).2.pins.hold = true)
    ∧ ({ withBits idle 0 0 0 0 0 0 0 1 with env := [[.pin .hold true]] }.boundarySlot.ctl.halted = true
      ∧ { withBits idle 0 0 0 0 0 0 0 1 with env := [[.pin .hold true]] }.boundarySlot.pins.hold = true)
    ∧ ({ idle with env := [[.pin .hold true]] }.boundarySlot.ctl.halted = false ∧ idle.ctl.hldaFF = false) := by decide

theorem witness_ResetIn :
    { full with env := [[.resetIn], []] }.env = (.resetIn :: []) :: [[]]
    ∧ { full with env := [[.resetIn, .pin .hold true]] }.env = (.resetIn :: [.pin .hold true]) :: []
    ∧ (full.mem.wf = true ∧ ∀ x : Word, full.losesAt x = false)
    ∧ { full with memMap := [{ base := 0, size := 1, kind := .ram, losesAtReset := true }] }.losesAt 0x0001 = false :=
  ⟨by decide, by decide, ⟨by decide, fun _ => rfl⟩, by decide⟩

/-- RESET IN in the slot of the write, and in the hold after it. -/
theorem witness_ResetDuringWrite :
    ({ full with env := [[.resetIn]] }.env = (.resetIn :: []) :: [] ∧ { full with env := [[.resetIn]] }.resetting = false
      ∧ { full with env := [[.resetIn]] }.ctl.hldaFF = false)
    ∧ ({ full with env := [[.pin .hold true], [.resetIn]] }.env = [.pin .hold true] :: (.resetIn :: []) :: []
      ∧ full.kindAt 0xFFFF = .ram ∧ full.losesAt 0xFFFF = false)
    ∧ { full with resetting := true }.resetting = true
    ∧ resetsToCome [[], [.pin .sid true, .resetIn]] = 1 := by decide

/-- RESET IN in the second write of PUSH H: the step uses it up. -/
theorem witness_ResetDuringWrite_step :
    (after (loaded { idle with env := [[], [], [], [.resetIn], []] } 0x0100 [0xE5])).map (fun t => resetsToCome t.env)
      = some 0 ∧ resetsToCome [[], [], [], [.resetIn], []] = 1 := by decide

/-- Each kind, at both ends of the space. -/
theorem witness_MemoryKinds :
    idle.kindAt 0x0000 = .ram ∧ idle.kindAt 0xFFFF = .ram ∧ (platform idle .rom).kindAt 0x0000 = .rom
    ∧ ((answered (platform idle .device) [0x5A]).kindAt 0xFFFF = .device
      ∧ (takeAnswer (answered (platform idle .device) [0x5A]).platform.devices 0xFFFF).1 = some 0x5A)
    ∧ ((platform idle .device).kindAt 0x0000 = .device ∧ (takeAnswer (platform idle .device).platform.devices 0x0000).1 = none)
    ∧ (givenAway idle).ctl.hldaFF = true
    ∧ (platform idle .absent).kindAt 0xFFFF = .absent ∧ (platform idle .rom).kindAt 0xFFFF ≠ .ram
    ∧ idle.Undisturbed := by decide

theorem witness_MemoryOnlyThroughBus : (after (loaded full 0xFFFF [0x77])).isSome = true := by decide

theorem witness_StepKeepsInv :
    (loaded full 0xFFFF [0x77]).Inv ∧ (after (loaded full 0xFFFF [0x77])).isSome = true := by decide

/-- Two different states with the same memory: cells at both ends. -/
theorem witness_MemoryIsItsContents :
    (holding idle [(0x0000, 1), (0xFFFF, 2)]).mem.wf = true ∧ (holding full [(0xFFFF, 2), (0x0000, 1)]).mem.wf = true
    ∧ ∀ a : Word, (holding idle [(0x0000, 1), (0xFFFF, 2)]).peek a = (holding full [(0xFFFF, 2), (0x0000, 1)]).peek a :=
  ⟨by decide, by decide, fun _ => rfl⟩

theorem witness_DecodeEncode :
    (Instr.rst 0).wellFormed = true ∧ (Instr.rst 7).wellFormed = true ∧ (Instr.jmp 0xFFFF).wellFormed = true := by decide

theorem witness_EncodeDecode :
    decode [0x00] = .ok .nop [] ∧ decode [0xFF, 0x08] = .ok (.rst 7) [0x08] ∧ decode [0xC3, 0xFF, 0xFF] = .ok (.jmp 0xFFFF) [] := by
  decide

/-- The first and the last undefined first byte, at the top of memory. -/
theorem witness_UndefinedAndLength :
    (Instr.rst 7).wellFormed = true
    ∧ ((loaded full 0xFFFF [0x08]).Undisturbed ∧ (loaded full 0xFFFF [0x08]).recognized = none
      ∧ (loaded full 0xFFFF [0x08]).ctl.halted = false ∧ (loaded full 0xFFFF [0x08]).HoldsBytes 0xFFFF [0x08])
    ∧ ((loaded idle 0x0100 [0xFD]).Undisturbed ∧ (loaded idle 0x0100 [0xFD]).recognized = none
      ∧ (loaded idle 0x0100 [0xFD]).ctl.halted = false ∧ (loaded idle 0x0100 [0xFD]).HoldsBytes 0x0100 [0xFD]) :=
  ⟨by decide, ⟨by decide, by decide, by decide, .inl rfl, rfl, trivial⟩,
    ⟨by decide, by decide, by decide, .inl rfl, rfl, trivial⟩⟩

/-- MVI A,42H at 0100H. -/
theorem witness_StepRunsDecoded :
    let s := loaded idle 0x0100 [0x3E, 0x42]
    s.boundarySlot.resetting = false ∧ s.boundarySlot.ctl.hldaFF = false ∧ s.boundarySlot.recognized = none
      ∧ s.boundarySlot.ctl.halted = false ∧ s.fetch.2.resetting = false ∧ decodeOne s.fetch.1 = some (.mviR .a 0x42) := by
  decide

/-- One, two and three bytes, in RAM and ROM, across the top of memory, and a conditional jump not taken. -/
theorem witness_StepRunsEncoded :
    (full.Undisturbed ∧ full.recognized = none ∧ full.ctl.halted = false)
    ∧ (loaded full 0xFFFF [0xCD, 0x34, 0x12]).HoldsBytes 0xFFFF (encode (.call 0x1234))
    ∧ (platform (loaded full 0xFFFF [0x3E, 0x42]) .rom).HoldsBytes 0xFFFF (encode (.mviR .a 0x42))
    ∧ (loaded full 0xFFFF [0xFF]).HoldsBytes 0xFFFF (encode (.rst 7))
    ∧ ((loaded full 0xFFFF [0xC2, 0x34, 0x12]).HoldsBytes 0xFFFF (encode (.jnz 0x1234))
      ∧ isUntaken 0xC2 full.flags = true) :=
  ⟨by decide, ⟨.inl rfl, rfl, .inl rfl, rfl, .inl rfl, rfl, trivial⟩, ⟨.inr rfl, rfl, .inr rfl, rfl, trivial⟩,
    ⟨.inl rfl, rfl, trivial⟩, ⟨.inl rfl, rfl, .inl rfl, rfl, .inl rfl, rfl, trivial⟩, by decide⟩


end Sys2Proof.Tests
end

-- The frame of every instruction.
section
/-! What an instruction can have done to the state, whatever the outside did meanwhile, said once for all 113 rows
(spec 10_state.md R36): `WritesOnly`, one lemma for each shared operation, and `exec_writesOnly`. -/

namespace Sys2Proof.Machine

/-- All that instruction `i` can have done between `s` and `t`: it wrote the registers, flags, SP and control bits that R36
names for it; besides, machine cycles ran and the outside acted in them. -/
structure WritesOnly (i : Instr) (s t : State) : Prop where
  regs : ∀ r, r ∉ regsWritten i → t.regs.get r = s.regs.get r
  szap : writesSzap i = false →
    t.flags.s = s.flags.s ∧ t.flags.z = s.flags.z ∧ t.flags.ac = s.flags.ac ∧ t.flags.p = s.flags.p
  cy : writesCy i = false → t.flags.cy = s.flags.cy
  sp : writesSp i = false → t.sp = s.sp
  enable : i ≠ .ei → i ≠ .di → t.ctl.ie = s.ctl.ie ∧ t.ctl.tie = s.ctl.tie
  serial : i ≠ .sim →
    t.ctl.m55 = s.ctl.m55 ∧ t.ctl.m65 = s.ctl.m65 ∧ t.ctl.m75 = s.ctl.m75 ∧ t.ctl.sod = s.ctl.sod
  r75 : i ≠ .sim → s.ctl.r75 = true → t.ctl.r75 = true
  eiInh : i ≠ .ei → t.ctl.eiInh = s.ctl.eiInh
  halted : i ≠ .hlt → t.ctl.halted = s.ctl.halted
  tieV : i ≠ .rim → t.ctl.tieV = s.ctl.tieV
  trapFF : s.ctl.trapFF = true → t.ctl.trapFF = true
  memory : MemoryAsLogged s t
  wf : s.mem.wf = true → t.mem.wf = true
  hold : (s.ctl.hldaFF = true → s.pins.hold = true) → t.ctl.hldaFF = true → t.pins.hold = true
  resetting : s.resetting = true → t.resetting = true
  resets : t.resetting = false → resetsToCome t.env = resetsToCome s.env

namespace WritesOnly

variable {i : Instr} {s u : State}

/-- Machine cycles and the outside alone are within the frame of any instruction. -/
theorem of_outside (h : OutsideOnly s u) : WritesOnly i s u where
  regs _ _ := by rw [h.regs]
  szap _ := by simp only [h.flags, and_self]
  cy _ := by rw [h.flags]
  sp _ := h.sp
  enable _ _ := by rw [h.ctl]; exact ⟨rfl, rfl⟩
  serial _ := by rw [h.ctl]; exact ⟨rfl, rfl, rfl, rfl⟩
  r75 _ := h.r75
  eiInh _ := by rw [h.ctl]
  halted _ := by rw [h.ctl]
  tieV _ := by rw [h.ctl]
  trapFF := h.trapFF
  memory := h.memory
  wf := h.wf
  hold := h.hold
  resetting := h.resetting
  resets := h.resets

theorem refl (i : Instr) (s : State) : WritesOnly i s s := .of_outside (.refl s)

theorem trans {t : State} (h : WritesOnly i s u) (h' : WritesOnly i u t) : WritesOnly i s t where
  regs r hr := (h'.regs r hr).trans (h.regs r hr)
  szap hi := by
    obtain ⟨hs, hz, hac, hp⟩ := h.szap hi
    obtain ⟨hs', hz', hac', hp'⟩ := h'.szap hi
    exact ⟨hs'.trans hs, hz'.trans hz, hac'.trans hac, hp'.trans hp⟩
  cy hi := (h'.cy hi).trans (h.cy hi)
  sp hi := (h'.sp hi).trans (h.sp hi)
  enable he hd := ⟨(h'.enable he hd).1.trans (h.enable he hd).1, (h'.enable he hd).2.trans (h.enable he hd).2⟩
  serial hi := by
    obtain ⟨h55, h65, h75, hsod⟩ := h.serial hi
    obtain ⟨h55', h65', h75', hsod'⟩ := h'.serial hi
    exact ⟨h55'.trans h55, h65'.trans h65, h75'.trans h75, hsod'.trans hsod⟩
  r75 hi := h'.r75 hi ∘ h.r75 hi
  eiInh hi := (h'.eiInh hi).trans (h.eiInh hi)
  halted hi := (h'.halted hi).trans (h.halted hi)
  tieV hi := (h'.tieV hi).trans (h.tieV hi)
  trapFF := h'.trapFF ∘ h.trapFF
  memory := h.memory.trans h'.memory
  wf := h'.wf ∘ h.wf
  hold := h'.hold ∘ h.hold
  resetting := h'.resetting ∘ h.resetting
  resets ht := by
    have hu : u.resetting = false := Bool.eq_false_iff.mpr fun hu => by simp [h'.resetting hu] at ht
    rw [h'.resets ht, h.resets hu]

theorem outside {t : State} (h : WritesOnly i s u) (ho : OutsideOnly u t) : WritesOnly i s t := h.trans (.of_outside ho)

/-- New registers, flags, SP and `pc`, as far as R36 gives them to the instruction. -/
theorem internal (h : WritesOnly i s u) (q : Regs) (f : Flags) (p n : Word)
    (hq : ∀ r, r ∉ regsWritten i → q.get r = u.regs.get r := by exact fun _ _ => rfl)
    (hf : writesSzap i = false → f.s = u.flags.s ∧ f.z = u.flags.z ∧ f.ac = u.flags.ac ∧ f.p = u.flags.p
      := by exact fun _ => ⟨rfl, rfl, rfl, rfl⟩)
    (hc : writesCy i = false → f.cy = u.flags.cy := by exact fun _ => rfl)
    (hp : writesSp i = false → p = u.sp := by exact fun _ => rfl) :
    WritesOnly i s { u with regs := q, flags := f, sp := p, pc := n } :=
  h.trans { of_outside (.refl u) with regs := hq, szap := hf, cy := hc, sp := hp, memory := .of_eq rfl rfl rfl }

/-- New control bits, as far as R36 gives them to the instruction; HLDA is the outside's. -/
theorem control (h : WritesOnly i s u) (c : Control)
    (henable : i ≠ .ei → i ≠ .di → c.ie = u.ctl.ie ∧ c.tie = u.ctl.tie := by simp)
    (hserial : i ≠ .sim → c.m55 = u.ctl.m55 ∧ c.m65 = u.ctl.m65 ∧ c.m75 = u.ctl.m75 ∧ c.sod = u.ctl.sod := by simp)
    (hr75 : i ≠ .sim → u.ctl.r75 = true → c.r75 = true := by simp)
    (heiInh : i ≠ .ei → c.eiInh = u.ctl.eiInh := by simp)
    (hhalted : i ≠ .hlt → c.halted = u.ctl.halted := by simp)
    (htieV : i ≠ .rim → c.tieV = u.ctl.tieV := by simp)
    (htrapFF : u.ctl.trapFF = true → c.trapFF = true := by simp)
    (hhlda : c.hldaFF = u.ctl.hldaFF := by rfl) : WritesOnly i s { u with ctl := c } :=
  h.trans { of_outside (.refl u) with
    enable := henable, serial := hserial, r75 := hr75, eiInh := heiInh, halted := hhalted, tieV := htieV
    trapFF := htrapFF, hold := fun hu ht => hu (hhlda ▸ ht), memory := .of_eq rfl rfl rfl }

/-! One lemma for each operation that several instructions share. -/

theorem setReg (h : WritesOnly i s u) (r : Reg) (v : Byte) (hr : r ∈ regsWritten i := by simp [regsWritten]) :
    WritesOnly i s (u.setReg r v) :=
  h.internal (u.regs.set r v) u.flags u.sp u.pc fun _ hx => Regs.get_set_other _ _ _ _ fun e => hx (e ▸ hr)

theorem setA (h : WritesOnly i s u) (v : Byte) (hr : .a ∈ regsWritten i := by simp [regsWritten]) :
    WritesOnly i s (u.setA v) := h.setReg .a v hr

end WritesOnly

/-- The registers of a pair (R12). -/
def Pair.regs : Pair → List Reg
  | .bc => [.b, .c]
  | .de => [.d, .e]
  | .hl => [.h, .l]
  | .sp => []

theorem State.setPair_get_other (s : State) (p : Pair) (v : Word) (r : Reg) (h : r ∉ p.regs) :
    (s.setPair p v).regs.get r = s.regs.get r := by
  cases p <;> cases r <;> simp_all [Pair.regs, State.setPair, Regs.get]

theorem State.setPair_sp_other (s : State) (p : Pair) (v : Word) (h : p ≠ .sp) : (s.setPair p v).sp = s.sp := by
  cases p <;> simp_all [State.setPair]

/-- Writing a pair changes registers and SP only. -/
theorem State.setPair_state (s : State) (p : Pair) (v : Word) :
    s.setPair p v = { s with regs := (s.setPair p v).regs, sp := (s.setPair p v).sp } := by
  cases p <;> rfl

namespace WritesOnly

variable {i : Instr} {s u : State}

theorem setPair (h : WritesOnly i s u) (p : Pair) (v : Word)
    (hr : ∀ r ∈ p.regs, r ∈ regsWritten i := by simp [Pair.regs, regsWritten])
    (hp : p = .sp → writesSp i = true := by simp [writesSp]) : WritesOnly i s (u.setPair p v) := by
  rw [State.setPair_state]
  exact h.internal _ u.flags _ u.pc (fun r hx => u.setPair_get_other p v r (hx ∘ hr r))
    (hp := fun hi => u.setPair_sp_other p v fun e => by simp [hp e] at hi)

/-- New flags, all five of which R36 gives to the instruction. -/
theorem setFlags (h : WritesOnly i s u) (f : Flags) (hz : writesSzap i = true := by rfl)
    (hc : writesCy i = true := by rfl) : WritesOnly i s { u with flags := f } :=
  h.internal u.regs f u.sp u.pc (hf := fun hi => by simp [hz] at hi) (hc := fun hi => by simp [hc] at hi)

theorem setCy (h : WritesOnly i s u) (c : Bool) (hc : writesCy i = true := by rfl) :
    WritesOnly i s { u with flags := { u.flags with cy := c } } :=
  h.internal u.regs { u.flags with cy := c } u.sp u.pc (hc := fun hi => by simp [hc] at hi)

theorem setSp (h : WritesOnly i s u) (p : Word) (hp : writesSp i = true := by rfl) : WritesOnly i s { u with sp := p } :=
  h.internal u.regs u.flags p u.pc (hp := fun hi => by simp [hp] at hi)

theorem setPc (h : WritesOnly i s u) (n : Word) : WritesOnly i s { u with pc := n } :=
  h.internal u.regs u.flags u.sp n

theorem setSum (h : WritesOnly i s u) (o : Sum) (hr : .a ∈ regsWritten i := by simp [regsWritten])
    (hz : writesSzap i = true := by rfl) (hc : writesCy i = true := by rfl) : WritesOnly i s (u.setSum o) :=
  (h.setA o.r hr).setFlags _ hz hc

theorem logicA (h : WritesOnly i s u) (v : Byte) (ac : Bool) (hr : .a ∈ regsWritten i := by simp [regsWritten])
    (hz : writesSzap i = true := by rfl) (hc : writesCy i = true := by rfl) : WritesOnly i s (u.logicA v ac) :=
  (h.setA v hr).setFlags _ hz hc

theorem rotateA (h : WritesOnly i s u) (v : Byte) (c : Bool) (hr : .a ∈ regsWritten i := by simp [regsWritten])
    (hc : writesCy i = true := by rfl) : WritesOnly i s (u.rotateA v c) :=
  (h.setA v hr).setCy c hc

/-- The carry of an increment or decrement is kept (R185, R186). -/
theorem setCountFlags (h : WritesOnly i s u) (o : Sum) (hz : writesSzap i = true := by rfl) :
    WritesOnly i s (u.setCountFlags o) :=
  h.internal u.regs _ u.sp u.pc (hf := fun hi => by simp [hz] at hi)

theorem push16 (h : WritesOnly i s u) (v : Word) (hp : writesSp i = true := by rfl) : WritesOnly i s (u.push16 v) := by
  obtain ⟨t, ht, e⟩ := OutsideOnly.push16 u v
  rw [e]
  exact (h.outside ht).setSp _ hp

theorem pop16 (h : WritesOnly i s u) (hp : writesSp i = true := by rfl) : WritesOnly i s u.pop16.2 := by
  obtain ⟨t, ht, e⟩ := OutsideOnly.pop16 u
  rw [e]
  exact (h.outside ht).setSp _ hp

theorem callTo (h : WritesOnly i s u) (a : Word) (hp : writesSp i = true := by rfl) : WritesOnly i s (u.callTo a) :=
  (h.push16 _ hp).setPc a

theorem popPc (h : WritesOnly i s u) (hp : writesSp i = true := by rfl) : WritesOnly i s u.popPc :=
  (h.pop16 hp).setPc _

theorem jumpIf (h : WritesOnly i s u) (k : Cond) (a : Word) : WritesOnly i s (u.jumpIf k a) := by
  unfold State.jumpIf
  split
  · exact h.setPc a
  · exact h

theorem callIf (h : WritesOnly i s u) (k : Cond) (a : Word) (hp : writesSp i = true := by rfl) :
    WritesOnly i s (u.callIf k a) := by
  unfold State.callIf
  split
  · exact h.callTo a hp
  · exact h

theorem returnIf (h : WritesOnly i s u) (k : Cond) (hp : writesSp i = true := by rfl) : WritesOnly i s (u.returnIf k) := by
  unfold State.returnIf
  split
  · exact h.popPc hp
  · exact h

theorem dad (h : WritesOnly i s u) (v : Word) (hr : ∀ r ∈ Pair.hl.regs, r ∈ regsWritten i := by simp [Pair.regs, regsWritten])
    (hc : writesCy i = true := by rfl) : WritesOnly i s (u.dad v) :=
  (((h.outside (.busIdle _ .idleDad (fun _ => rfl) fun _ => rfl)).outside
    (.busIdle _ .idleDad (fun _ => rfl) fun _ => rfl)).setPair .hl _ hr).setCy _ hc

theorem memRead (h : WritesOnly i s u) (a : Word) : WritesOnly i s (u.memRead a).2 := h.outside (.memRead u a)

theorem memWrite (h : WritesOnly i s u) (a : Word) (v : Byte) : WritesOnly i s (u.memWrite a v) :=
  h.outside (.memWrite u a v)

theorem inputLevel (h : WritesOnly i s u) (l : Option Bool) : WritesOnly i s (u.inputLevel l).2 := by
  rw [State.inputLevel_state]
  exact h.outside (.account u u.platform _)

/-- EI and DI may make the saved enable status free (R316). -/
theorem disturbTie (h : WritesOnly i s u) (hi : i = .ei ∨ i = .di) : WritesOnly i s u.disturbTie := by
  rw [State.disturbTie_state]
  exact (h.outside (.account u u.platform u.disturbTie.draws)).control { u.ctl with tie := u.disturbTie.ctl.tie }
    (henable := fun he hd => (hi.elim he hd).elim)

end WritesOnly

/-- Every instruction completes, in any state (R300), and within the frame of R36. -/
theorem exec_completes (i : Instr) (s : State) : ∃ t, exec i s = .next t ∧ WritesOnly i s t := by
  have h := WritesOnly.refl i s
  cases i with
  | movRR dst | mviR dst => exact ⟨_, rfl, h.setReg dst _⟩
  | movRM dst => exact ⟨_, rfl, (h.memRead _).setReg dst _⟩
  | movMR | mviM | staxB | staxD | sta => exact ⟨_, rfl, h.memWrite _ _⟩
  | ldaxB | ldaxD | lda => exact ⟨_, rfl, (h.memRead _).setA _⟩
  | shld => exact ⟨_, rfl, (h.memWrite _ _).memWrite _ _⟩
  | lhld => exact ⟨_, rfl, ((h.memRead _).memRead _).setPair .hl _⟩
  | xchg => exact ⟨_, rfl, (h.setPair .hl _).setPair .de _⟩
  | lxiB | inxB | dcxB => exact ⟨_, rfl, h.setPair .bc _⟩
  | lxiD | inxD | dcxD => exact ⟨_, rfl, h.setPair .de _⟩
  | lxiH | inxH | dcxH => exact ⟨_, rfl, h.setPair .hl _⟩
  | lxiSp | inxSp | dcxSp | sphl => exact ⟨_, rfl, h.setPair .sp _⟩
  | pushB | pushD | pushH => exact ⟨_, rfl, h.push16 _⟩
  | pushPsw => exact ⟨_, rfl, (((h.outside (.draw1 _)).outside (.draw1 _)).outside (.draw1 _)).push16 _⟩
  | popB => exact ⟨_, rfl, h.pop16.setPair .bc _⟩
  | popD => exact ⟨_, rfl, h.pop16.setPair .de _⟩
  | popH => exact ⟨_, rfl, h.pop16.setPair .hl _⟩
  | popPsw => exact ⟨_, rfl, (((h.memRead _).memRead _).setA _).setSp (s.sp + 2) |>.setFlags _⟩
  | xthl => exact ⟨_, rfl, ((((h.memRead _).memRead _).memWrite _ _).memWrite _ _).setPair .hl _⟩
  | jmp | pchl => exact ⟨_, rfl, h.setPc _⟩
  | jc | jnc | jz | jnz | jp | jm | jpe | jpo => exact ⟨_, rfl, h.jumpIf _ _⟩
  | call | rst => exact ⟨_, rfl, h.callTo _⟩
  | cc | cnc | cz | cnz | cp | cm | cpe | cpo => exact ⟨_, rfl, h.callIf _ _⟩
  | ret => exact ⟨_, rfl, h.popPc⟩
  | rc | rnc | rz | rnz | rp | rm | rpe | rpo => exact ⟨_, rfl, h.returnIf _⟩
  | inPort => exact ⟨_, rfl, (h.outside (.ioRead _ _)).setA _⟩
  | outPort => exact ⟨_, rfl, h.outside (.ioWrite _ _ _)⟩
  | inrR dst | dcrR dst => exact ⟨_, rfl, (h.setReg dst _).setCountFlags _⟩
  | inrM | dcrM => exact ⟨_, rfl, ((h.memRead _).memWrite _ _).setCountFlags _⟩
  | addR | adcR | adi | aci | subR | sbbR | sui | sbi | daa => exact ⟨_, rfl, h.setSum _⟩
  | addM | adcM | subM | sbbM => exact ⟨_, rfl, (h.memRead _).setSum _⟩
  | dadB | dadD | dadH | dadSp => exact ⟨_, rfl, h.dad _⟩
  | anaR | xraR | oraR | ani | xri | ori => exact ⟨_, rfl, h.logicA _ _⟩
  | anaM | xraM | oraM => exact ⟨_, rfl, (h.memRead _).logicA _ _⟩
  | cmpR | cpi => exact ⟨_, rfl, h.setFlags _⟩
  | cmpM => exact ⟨_, rfl, (h.memRead _).setFlags _⟩
  | rlc | rrc | ral | rar => exact ⟨_, rfl, h.rotateA _ _⟩
  | cma => exact ⟨_, rfl, h.setA _⟩
  | stc | cmc => exact ⟨_, rfl, h.setCy _⟩
  | nop => exact ⟨_, rfl, h⟩
  | ei => exact ⟨_, rfl, (h.disturbTie (.inl rfl)).control _⟩
  | di => exact ⟨_, rfl, (h.disturbTie (.inr rfl)).control _⟩
  | hlt => exact ⟨_, rfl, h.control _⟩
  | rim => exact ⟨_, rfl, ((((h.inputLevel _).inputLevel _).inputLevel _).setA _).control _⟩
  | sim => exact ⟨_, rfl, (h.outside (.sodChange _ _ _)).control _⟩

/-- What an instruction answers is within its frame. -/
theorem exec_writesOnly {i : Instr} {s t : State} (h : exec i s = .next t) : WritesOnly i s t := by
  obtain ⟨t', ht', hw⟩ := exec_completes i s
  cases h.symm.trans ht'
  exact hw

/-- Settles O35: each conjunct is a part of the frame that every instruction keeps. -/
theorem instructionFrame : Obligations.InstructionFrame := by
  unfold Obligations.InstructionFrame
  intro i s t h
  have hw := exec_writesOnly h
  exact ⟨hw.regs, hw.szap, hw.cy, hw.sp⟩

end Sys2Proof.Machine
end

-- Every step.
section
/-! What a step keeps, from what an instruction may write (`exec_writesOnly`) and what a boundary can do
(`State.boundary_cases`). -/

namespace Sys2Proof.Machine

/-- The state at a boundary once `eiInh` has been read: it is cleared before anything is accepted or run (R310). -/
def State.pastBoundary (s : State) : State := { s with ctl := { s.ctl with eiInh := false } }

/-- The fetch is within the frame of any instruction (R13). -/
theorem WritesOnly.fetch (i : Instr) (s : State) : WritesOnly i s s.fetch.2 := by
  obtain ⟨u, n, hu, e⟩ := s.fetch_spec
  rw [e]
  exact (WritesOnly.of_outside hu).setPc n

/-- Taking a restart interrupt changes, past the acceptance, no more than RST n does: it pushes `pc` and branches (R315). -/
theorem WritesOnly.enterRestart (n : Nat) (s : State) (src : Restart) :
    WritesOnly (.rst n) (s.accepting src) (s.enterRestart src) :=
  (((WritesOnly.refl (.rst n) _).outside (.busIdle _ .idleAck (fun _ => rfl) fun _ => rfl)).push16 s.pc).setPc src.address

/-- The state from which the acknowledge cycles of INTR run: out of the halt state, interrupts disabled; a saved status that
was valid is the free bit `tie`, and `n` free values have been drawn (R316, R318). -/
def State.acceptingIntr (s : State) (tie : Bool) (n : Nat) : State :=
  { s with ctl := { s.ctl with halted := false, ie := false, tie := tie }, draws := n }

/-- The acknowledge of INTR changes, past the acceptance, no more than RST n does, whether it completes or RESET IN ends it
(R318). -/
theorem State.acceptIntr_writesOnly {s w : State} (h : s.acceptIntr = .next w) :
    ∃ tie n, WritesOnly (.rst 0) (s.acceptingIntr tie n) w := by
  obtain ⟨d, x, hd, -, hx, hw⟩ := State.acceptIntr_cases h
  have hd : d = s.acceptingIntr d.ctl.tie d.draws := hd
  refine ⟨d.ctl.tie, d.draws, ?_⟩
  rw [← hd]
  refine (WritesOnly.of_outside hx).trans ?_
  rcases hw with ⟨-, rfl⟩ | ⟨n, hn⟩ | ⟨a, ha⟩
  · exact .refl _ _
  · cases hn
    exact (WritesOnly.refl _ x).callTo _
  · cases ha
    exact (WritesOnly.refl _ x).callTo _

/-- What a boundary leaves (R310): the state after a restart, after INTR, or as it was; or an instruction was decoded and wrote
what it may. -/
theorem State.boundary_effect {u w : State} (h : u.boundary = .next w) :
    (∃ src, u.recognized = some (.restart src) ∧ WritesOnly (.rst 0) (u.pastBoundary.accepting src) w)
    ∨ (u.recognized = some .intr ∧ ∃ tie n, WritesOnly (.rst 0) (u.pastBoundary.acceptingIntr tie n) w)
    ∨ (u.recognized = none ∧ (w = u.pastBoundary ∨ w = u))
    ∨ (u.recognized = none ∧ u.ctl.halted = false ∧ (WritesOnly .nop u.pastBoundary w
        ∨ ∃ i, decodeOne u.pastBoundary.fetch.1 = some i ∧ exec i u.pastBoundary.fetch.2 = .next w)) := by
  rcases State.boundary_cases h with ⟨src, hr, rfl⟩ | ⟨hr, hw⟩ | ⟨hr, -, rfl⟩ | ⟨hr, -, -, rfl⟩ | ⟨hr, hh, -, hw⟩
  · exact .inl ⟨src, hr, .enterRestart 0 _ src⟩
  · exact .inr (.inl ⟨hr, State.acceptIntr_writesOnly hw⟩)
  · exact .inr (.inr (.inl ⟨hr, .inl rfl⟩))
  · exact .inr (.inr (.inl ⟨hr, .inr rfl⟩))
  · refine .inr (.inr (.inr ⟨hr, hh, ?_⟩))
    rcases hw with ⟨-, rfl⟩ | ⟨i, hi, hw⟩
    · exact .inl (.fetch .nop _)
    · exact .inr ⟨i, hi, hw⟩

/-- What EI answers (R254). -/
theorem exec_ei_ctl {s t : State} (h : exec .ei s = .next t) :
    t.ctl = { s.ctl with ie := true, eiInh := true, tie := s.disturbTie.ctl.tie } := by
  cases h
  show { s.disturbTie.ctl with ie := true, eiInh := true } = _
  rw [State.disturbTie_state]

/-- What DI answers (R255). -/
theorem exec_di_ctl {s t : State} (h : exec .di s = .next t) :
    t.ctl = { s.ctl with ie := false, tie := s.disturbTie.ctl.tie } := by
  cases h
  show { s.disturbTie.ctl with ie := false } = _
  rw [State.disturbTie_state]

/-- Only EI makes IE 1 (R22). -/
theorem exec_ie {i : Instr} {s t : State} (h : exec i s = .next t) (hi : i ≠ .ei) (ht : t.ctl.ie = true) :
    s.ctl.ie = true := by
  by_cases hd : i = .di
  · subst hd
    simp [exec_di_ctl h] at ht
  · rw [← ((exec_writesOnly h).enable hi hd).1, ht]

/-- SIM clears R75 only where bit 4 of A is 1 (R266). -/
theorem exec_sim_r75 {s t : State} (h : exec .sim s = .next t) : t.ctl.r75 = (s.ctl.r75 && !s.regs.a.getLsbD 4) := by
  cases h
  rfl

/-! The invariant. -/

/-- The invariant but for `resetting`: what a boundary keeps even if RESET IN arrives in it. -/
structure State.BoundaryInv (s : State) : Prop where
  wf : s.mem.wf = true
  enabled : s.ctl.eiInh = true → s.ctl.ie = true
  running : s.ctl.eiInh = true → s.ctl.halted = false
  hold : s.ctl.hldaFF = true → s.pins.hold = true

theorem State.inv_iff (s : State) : s.Inv ↔ s.resetting = false ∧ s.BoundaryInv := by
  constructor
  · rintro ⟨hwf, hr, he, hh, hp⟩
    exact ⟨hr, hwf, he, fun h => by simpa [h] using hh, hp⟩
  · rintro ⟨hr, hwf, he, hh, hp⟩
    exact ⟨hwf, hr, he, fun h => by simp [hh h.2] at h, hp⟩

namespace State.BoundaryInv

variable {s t : State}

theorem outside (h : s.BoundaryInv) (ho : OutsideOnly s t) : t.BoundaryInv where
  wf := ho.wf h.wf
  enabled := by
    rw [ho.ctl]
    exact h.enabled
  running := by
    rw [ho.ctl]
    exact h.running
  hold := ho.hold h.hold

/-- Where EIINH is 0 only memory and the hold are left to say. -/
theorem of_eiInh (hwf : s.mem.wf = true) (hhold : s.ctl.hldaFF = true → s.pins.hold = true) (hs : s.ctl.eiInh = false) :
    s.BoundaryInv where
  wf := hwf
  enabled he := by simp [hs] at he
  running he := by simp [hs] at he
  hold := hhold

theorem writesOnly {i : Instr} (h : s.BoundaryInv) (hw : WritesOnly i s t) (hi : i ≠ .ei) (hs : s.ctl.eiInh = false) :
    t.BoundaryInv :=
  of_eiInh (hw.wf h.wf) (hw.hold h.hold) ((hw.eiInh hi).trans hs)

theorem pastBoundary (h : s.BoundaryInv) : s.pastBoundary.BoundaryInv := of_eiInh h.wf h.hold rfl

theorem accepting (h : s.BoundaryInv) (hs : s.ctl.eiInh = false) (src : Restart) : (s.accepting src).BoundaryInv := by
  have hc := s.accepting_ctl src
  rw [State.accepting_state]
  exact of_eiInh h.wf (by rw [hc]; exact h.hold) (by rw [hc]; exact hs)

/-- EIINH is set by EI only, which sets IE and does not halt (R28, R254). -/
theorem exec {i : Instr} (h : s.BoundaryInv) (hs : s.ctl.eiInh = false) (hh : s.ctl.halted = false)
    (he : exec i s = .next t) : t.BoundaryInv := by
  have hw := exec_writesOnly he
  by_cases hi : i = .ei
  · subst hi
    have hc := exec_ei_ctl he
    exact ⟨hw.wf h.wf, fun _ => by rw [hc], fun _ => by rw [hc]; exact hh, hw.hold h.hold⟩
  · exact h.writesOnly hw hi hs

/-- A boundary keeps it, whatever it accepts or runs. -/
theorem boundary (h : s.BoundaryInv) (hb : s.boundary = .next t) : t.BoundaryInv := by
  have hp := h.pastBoundary
  rcases State.boundary_effect hb with ⟨src, -, hw⟩ | ⟨-, tie, n, hw⟩ | ⟨-, rfl | rfl⟩ | ⟨-, hh, hw | ⟨i, -, hw⟩⟩
  · exact (hp.accepting rfl src).writesOnly hw nofun (by rw [State.accepting_ctl]; rfl)
  · have ha : (s.pastBoundary.acceptingIntr tie n).BoundaryInv := of_eiInh h.wf h.hold rfl
    exact ha.writesOnly hw nofun rfl
  · exact hp
  · exact h
  · exact hp.writesOnly hw nofun rfl
  · have hf := WritesOnly.fetch .nop s.pastBoundary
    exact (hp.writesOnly hf nofun rfl).exec (hf.eiInh nofun) ((hf.halted nofun).trans hh) hw

/-- RESET IN leaves a state that meets the invariant (R34). -/
theorem afterReset (h : s.BoundaryInv) : s.afterReset.Inv :=
  s.afterReset.inv_iff.mpr ⟨rfl, h.wf, nofun, nofun, nofun⟩

end State.BoundaryInv

/-- Settles O52: the slot before the boundary and the boundary keep the invariant, and RESET IN restores it. -/
theorem stepKeepsInv : Obligations.StepKeepsInv := by
  unfold Obligations.StepKeepsInv
  intro s t hs h
  have hu : s.boundarySlot.BoundaryInv := (s.inv_iff.mp hs).2.outside (.boundarySlot s)
  rcases step_cases h with ⟨-, rfl⟩ | ⟨-, w, hb, ⟨-, rfl⟩ | ⟨hr, rfl⟩⟩
  · exact hu.afterReset
  · exact (hu.boundary hb).afterReset
  · exact t.inv_iff.mpr ⟨hr, hu.boundary hb⟩

/-- Settles O53, by evaluating the reset state: memory lists nothing, and EIINH and HLDA are 0. -/
theorem resetMeetsInv : Obligations.ResetMeetsInv := by
  unfold Obligations.ResetMeetsInv
  decide

/-- Settles O48, by evaluating the reset state. -/
theorem resetState : Obligations.ResetState := by
  unfold Obligations.ResetState
  decide

end Sys2Proof.Machine
end

-- Control bits, steps and latches.
section
/-! What a boundary does to single control bits, and the statements about IE, R75, TRAPFF, the masks and SOD. -/

namespace Sys2Proof.Machine

/-- A step with a next state ended in reset, or the boundary was taken to its end. -/
theorem step_ends {s t : State} (h : step s = .next t) :
    (∃ w : State, t = w.afterReset) ∨ s.boundarySlot.boundary = .next t := by
  rcases step_cases h with ⟨-, ht⟩ | ⟨-, w, hb, ⟨-, ht⟩ | ⟨-, rfl⟩⟩
  · exact .inl ⟨_, ht⟩
  · exact .inl ⟨w, ht⟩
  · exact .inr hb

/-- Only the acceptance of TRAP clears TRAPFF at a boundary (R25). -/
theorem State.boundary_trapFF {u w : State} (h : u.boundary = .next w) (hu : u.ctl.trapFF = true) :
    u.recognized = some (.restart .trap) ∨ w.ctl.trapFF = true := by
  rcases State.boundary_effect h with ⟨src, hr, hw⟩ | ⟨-, tie, n, hw⟩ | ⟨-, rfl | rfl⟩ | ⟨-, -, hw | ⟨i, -, hw⟩⟩
  · have ha := u.pastBoundary.accepting_ctl src
    cases src with
    | trap => exact .inl hr
    | rst75 | rst65 | rst55 => exact .inr (hw.trapFF (by rw [ha]; exact hu))
  · exact .inr (hw.trapFF hu)
  · exact .inr hu
  · exact .inr hu
  · exact .inr (hw.trapFF hu)
  · exact .inr ((exec_writesOnly hw).trapFF ((WritesOnly.fetch .nop u.pastBoundary).trapFF hu))

/-- Only SIM changes the masks and SOD at a boundary (R23, R26). -/
theorem State.boundary_serial {u w : State} (h : u.boundary = .next w) :
    (u.recognized = none ∧ decodeOne u.pastBoundary.fetch.1 = some .sim)
    ∨ (w.ctl.m55 = u.ctl.m55 ∧ w.ctl.m65 = u.ctl.m65 ∧ w.ctl.m75 = u.ctl.m75 ∧ w.ctl.sod = u.ctl.sod) := by
  rcases State.boundary_effect h with ⟨src, -, hw⟩ | ⟨-, tie, n, hw⟩ | ⟨-, rfl | rfl⟩ | ⟨hr, -, hw | ⟨i, hi, hw⟩⟩
  · have hs := hw.serial nofun
    rw [State.accepting_ctl] at hs
    exact .inr hs
  · exact .inr (hw.serial nofun)
  · exact .inr ⟨rfl, rfl, rfl, rfl⟩
  · exact .inr ⟨rfl, rfl, rfl, rfl⟩
  · exact .inr (hw.serial nofun)
  · by_cases hs : i = .sim
    · exact .inl ⟨hr, hs ▸ hi⟩
    · exact .inr (((WritesOnly.fetch i u.pastBoundary).trans (exec_writesOnly hw)).serial hs)

/-- Only EI sets IE at a boundary (R22). -/
theorem State.boundary_ie {u w : State} (h : u.boundary = .next w) (hu : u.ctl.ie = false) (hw : w.ctl.ie = true) :
    w.ctl.eiInh = true ∧ u.recognized = none ∧ decodeOne u.pastBoundary.fetch.1 = some .ei := by
  have kept {i : Instr} {d : State} (hd : d.ctl.ie = false) (h : WritesOnly i d w) (he : i ≠ .ei) (hi : i ≠ .di) :
      False := by simp [(h.enable he hi).1, hd] at hw
  rcases State.boundary_effect h with ⟨src, -, he⟩ | ⟨-, tie, n, he⟩ | ⟨-, rfl | rfl⟩ | ⟨hr, -, he | ⟨i, hi, he⟩⟩
  · exact (kept (by rw [State.accepting_ctl]) he nofun nofun).elim
  · exact (kept rfl he nofun nofun).elim
  · exact absurd hw (by simp [State.pastBoundary, hu])
  · exact absurd hw (by simp [hu])
  · exact (kept (d := u.pastBoundary) hu he nofun nofun).elim
  · by_cases hs : i = .ei
    · subst hs
      exact ⟨by rw [exec_ei_ctl he], hr, hi⟩
    · have hf := ((WritesOnly.fetch .nop u.pastBoundary).enable nofun nofun).1
      have hu' : u.pastBoundary.ctl.ie = true := hf.symm.trans (exec_ie he hs hw)
      exact absurd hu' (by simp [State.pastBoundary, hu])

/-- Only the acceptance of RST 7.5, and SIM with bit 4 of A equal to 1, clear R75 at a boundary (R24). -/
theorem State.boundary_r75 {u w : State} (h : u.boundary = .next w) (hu : u.ctl.r75 = true) :
    u.recognized = some (.restart .rst75)
    ∨ (decodeOne u.pastBoundary.fetch.1 = some .sim ∧ u.regs.a.getLsbD 4 = true) ∨ w.ctl.r75 = true := by
  rcases State.boundary_effect h with ⟨src, hr, hw⟩ | ⟨-, tie, n, hw⟩ | ⟨-, rfl | rfl⟩ | ⟨-, -, hw | ⟨i, hi, hw⟩⟩
  · have ha := u.pastBoundary.accepting_ctl src
    cases src with
    | rst75 => exact .inl hr
    | trap | rst65 | rst55 => exact .inr (.inr (hw.r75 nofun (by rw [ha]; exact hu)))
  · exact .inr (.inr (hw.r75 nofun hu))
  · exact .inr (.inr hu)
  · exact .inr (.inr hu)
  · exact .inr (.inr (hw.r75 nofun hu))
  · have hf := WritesOnly.fetch .nop u.pastBoundary
    by_cases hs : i = .sim
    · subst hs
      have ha : u.pastBoundary.fetch.2.regs.a = u.regs.a := hf.regs .a nofun
      have hr := exec_sim_r75 hw
      rw [hf.r75 nofun hu, ha, Bool.true_and] at hr
      cases hb : u.regs.a.getLsbD 4
      · exact .inr (.inr (by rw [hr, hb]; rfl))
      · exact .inr (.inl ⟨hi, rfl⟩)
    · exact .inr (.inr ((exec_writesOnly hw).r75 hs (hf.r75 nofun hu)))

/-- Settles O36: the frame of one instruction is `WritesOnly`; of a step, what the slot before the boundary keeps and what the
boundary does to TRAPFF, the masks and SOD. -/
theorem controlFrame : Obligations.ControlFrame := by
  unfold Obligations.ControlFrame
  refine ⟨fun i s t h => ?_, fun s t h => ?_⟩
  · have hw := exec_writesOnly h
    refine ⟨hw.enable, fun hi => ?_, hw.eiInh, hw.halted, hw.tieV, hw.trapFF⟩
    obtain ⟨h55, h65, h75, hsod⟩ := hw.serial hi
    exact ⟨h55, h65, h75, hsod, hw.r75 hi⟩
  · have hu := OutsideOnly.boundarySlot s
    rcases step_ends h with hreset | hb
    · exact ⟨fun _ _ => .inr hreset, fun _ => .inr hreset⟩
    · refine ⟨fun hs ht => ?_, fun hne => ?_⟩
      · rcases State.boundary_trapFF hb (hu.trapFF hs) with hr | hw
        · exact .inl hr
        · simp [hw] at ht
      · rcases State.boundary_serial hb with hr | ⟨h55, h65, h75, hsod⟩
        · exact .inl hr
        · refine absurd ?_ hne
          rw [h55, h65, h75, hsod, hu.ctl]

/-- Settles O43: the slot before the boundary leaves IE alone, RESET IN clears it, and a boundary sets it by EI only. -/
theorem onlyEiEnables : Obligations.OnlyEiEnables := by
  unfold Obligations.OnlyEiEnables
  intro s t h hs ht
  rcases step_ends h with ⟨w, rfl⟩ | hb
  · cases ht
  · exact State.boundary_ie hb (by rw [(OutsideOnly.boundarySlot s).ctl]; exact hs) ht

/-! What a boundary recognizes and runs. -/

/-- Where maskable interrupts are disabled or delayed only TRAP is recognized (R28, R310). -/
theorem State.recognized_disabled {s : State} (h : s.ctl.ie = false ∨ s.ctl.eiInh = true) :
    s.recognized = if s.ctl.trapFF && s.pins.trap then some (.restart .trap) else none := by
  have hd : (s.ctl.ie && !s.ctl.eiInh) = false := by rcases h with h | h <;> simp [h]
  simp only [State.recognized, hd, Bool.false_eq_true, if_false]

/-- RST 7.5 is recognized by its flip-flop (R24). -/
theorem State.recognized_rst75 {s : State} (h : s.recognized = some (.restart .rst75)) : s.ctl.r75 = true := by
  unfold State.recognized at h
  split_ifs at h with _ _ hr <;> cases h
  exact (Bool.and_eq_true_iff.mp hr).1

theorem State.boundary_restart {s : State} {src : Restart} (h : s.recognized = some (.restart src)) :
    s.boundary = .next (s.pastBoundary.enterRestart src) := by
  rw [State.boundary, h]
  rfl

theorem State.boundary_intr {s : State} (h : s.recognized = some .intr) : s.boundary = s.pastBoundary.acceptIntr := by
  rw [State.boundary, h]
  rfl

theorem State.boundary_halted {s : State} (h : s.recognized = none) (hh : s.ctl.halted = true) :
    s.boundary = .next s.pastBoundary := by
  rw [State.boundary, h]
  exact if_pos hh

theorem State.boundary_held {s : State} (h : s.recognized = none) (hh : s.ctl.halted = false)
    (hf : s.ctl.hldaFF = true) : s.boundary = .next s := by
  rw [State.boundary, h]
  exact (if_neg (by simp [hh])).trans (if_pos hf)

theorem State.boundary_runs {s : State} (h : s.recognized = none) (hh : s.ctl.halted = false)
    (hf : s.ctl.hldaFF = false) : s.boundary = s.pastBoundary.runInstr := by
  rw [State.boundary, h]
  exact (if_neg (by simp [hh])).trans (if_neg (by simp [hf]))

/-- Without RESET IN in the slot before it, a step is the boundary. -/
theorem step_boundary {s : State} (h : s.boundarySlot.resetting = false) : step s = finish s.boundarySlot.boundary := by
  simp only [step, State.cpuStep, h, Bool.false_eq_true, if_false]

/-- Settles O42: EI leaves IE and EIINH 1, so that the next boundary recognizes TRAP at most; DI leaves IE 0. -/
theorem eiDelay : Obligations.EiDelay := by
  unfold Obligations.EiDelay
  refine ⟨fun s t h htrap hq hh => ?_, fun s t h q hr => ?_⟩
  · have hc := exec_ei_ctl h
    have hr : t.recognized = none := by
      rw [State.recognized_disabled (.inr (by rw [hc])), if_neg (by simpa using htrap)]
    exact ⟨by rw [hc], by rw [step_quiet hq, State.boundary_runs hr hh hq.2.2.2]; rfl⟩
  · rw [State.recognized_disabled (.inl (by rw [exec_di_ctl h]))] at hr
    split at hr
    · exact (Option.some.inj hr).symm
    · cases hr

/-- Bit 6 of a packed byte. -/
theorem packByte_bit6 : ∀ b7 b6 b5 b4 b3 b2 b1 b0, (packByte b7 b6 b5 b4 b3 b2 b1 b0).getLsbD 6 = b6 := by decide

/-- Settles O44: of the ways to clear R75 the step's are those of its boundary; each of them is run to see that it does clear
it. -/
theorem rst75Latch : Obligations.Rst75Latch := by
  unfold Obligations.Rst75Latch
  refine ⟨fun s hs => by simp [State.setPin, hs], fun s t h hs ht => ?_, fun s hq hr => ?_, fun s hs => ?_, fun _ => rfl,
    fun s => State.recognized_rst75, fun s => ⟨_, rfl, packByte_bit6 ..⟩, rfl⟩
  · have hu := OutsideOnly.boundarySlot s
    rcases step_ends h with hreset | hb
    · exact .inr (.inr hreset)
    · rcases State.boundary_r75 hb (hu.r75 hs) with hr | hi | hw
      · exact .inl hr
      · rw [hu.regs] at hi
        exact .inr (.inl hi)
      · simp [hw] at ht
  · have hq' : s.pastBoundary.Undisturbed := hq
    refine ⟨s.pastBoundary.enterRestart .rst75, ?_, ?_⟩
    · rw [step_quiet hq, State.boundary_restart hr, finish_next]
      rw [State.enterRestart_quiet hq']
      exact hq.2.1
    · rw [State.enterRestart_quiet hq', State.accepting_ctl]
  · obtain ⟨t, ht, -⟩ := exec_completes .sim s
    exact ⟨t, ht, by rw [exec_sim_r75 ht, hs, Bool.not_true, Bool.and_false]⟩

end Sys2Proof.Machine
end

-- The instruction in memory.
section
/-! A step runs the instruction that stands at `pc`: decoding what the encoder wrote, and the fetch of bytes that stand in RAM
or ROM (spec 30_encoding.md R72, R75, R82). -/

namespace Sys2Proof.Machine

theorem joinBytes_surjective (v : Word) : ∃ hi lo, joinBytes hi lo = v := ⟨_, _, joinBytes_hiByte_loByte v⟩

/-- The instruction is what its first byte and its operand bytes select; bytes it does not have are not looked at
(R71, R73, R76). -/
theorem instrOf_encode {i : Instr} (hw : i.wellFormed = true) {b2 b3 : Byte}
    (hb : [b2, b3].take (operandBytes i).length = operandBytes i) : instrOf (opcodeOf i) b2 b3 = some i := by
  cases i with
  | movRR dst src => cases dst <;> cases src <;> rfl
  | movMR r | movRM r | inrR r | dcrR r | addR r | adcR r | subR r | sbbR r | anaR r | xraR r | oraR r | cmpR r =>
    cases r <;> rfl
  | rst n =>
    have hn : n < 8 := of_decide_eq_true hw
    interval_cases n <;> rfl
  | mviR r =>
    cases hb
    rw [opcodeOf]
    cases r <;> rfl
  | mviM | inPort | outPort | adi | aci | sui | sbi | ani | xri | ori | cpi =>
    cases hb
    rw [opcodeOf]
    rfl
  | lxiB v | lxiD v | lxiH v | sta v | lda v | shld v | lhld v | lxiSp v | jmp v | jc v | jnc v | jz v | jnz v | jp v | jm v
  | jpe v | jpo v | call v | cc v | cnc v | cz v | cnz v | cp v | cm v | cpe v | cpo v =>
    obtain ⟨hi, lo, rfl⟩ := joinBytes_surjective v
    obtain ⟨rfl, rfl⟩ : b2 = lo ∧ b3 = hi := by simpa [operandBytes] using hb
    rw [opcodeOf]
    rfl
  | _ => rfl

open Sys2Proof.Laws Sys2Proof.Laws.EncodedLength in
/-- The first byte of every instruction announces as many bytes as the instruction has (R75). -/
theorem encodedLength : ∀ i : Instr, EncodedLength.Statement i
  | .movRR dst src => movRR dst src | .movMR src => movMR src | .movRM dst => movRM dst | .mviR dst data => mviR dst data
  | .mviM data => mviM data | .lxiB data => lxiB data | .lxiD data => lxiD data | .lxiH data => lxiH data | .staxB => staxB
  | .staxD => staxD | .ldaxB => ldaxB | .ldaxD => ldaxD | .sta addr => sta addr | .lda addr => lda addr
  | .shld addr => shld addr | .lhld addr => lhld addr | .xchg => xchg | .pushB => pushB | .pushD => pushD | .pushH => pushH
  | .pushPsw => pushPsw | .popB => popB | .popD => popD | .popH => popH | .popPsw => popPsw | .xthl => xthl | .sphl => sphl
  | .lxiSp data => lxiSp data | .inxSp => inxSp | .dcxSp => dcxSp | .jmp addr => jmp addr | .jc addr => jc addr
  | .jnc addr => jnc addr | .jz addr => jz addr | .jnz addr => jnz addr | .jp addr => jp addr | .jm addr => jm addr
  | .jpe addr => jpe addr | .jpo addr => jpo addr | .pchl => pchl | .call addr => call addr | .cc addr => cc addr
  | .cnc addr => cnc addr | .cz addr => cz addr | .cnz addr => cnz addr | .cp addr => cp addr | .cm addr => cm addr
  | .cpe addr => cpe addr | .cpo addr => cpo addr | .ret => ret | .rc => rc | .rnc => rnc | .rz => rz | .rnz => rnz
  | .rp => rp | .rm => rm | .rpe => rpe | .rpo => rpo | .rst n => rst n | .inPort port => inPort port
  | .outPort port => outPort port | .inrR dst => inrR dst | .dcrR dst => dcrR dst | .inrM => inrM | .dcrM => dcrM
  | .inxB => inxB | .inxD => inxD | .inxH => inxH | .dcxB => dcxB | .dcxD => dcxD | .dcxH => dcxH | .addR src => addR src
  | .adcR src => adcR src | .addM => addM | .adcM => adcM | .adi data => adi data | .aci data => aci data | .dadB => dadB
  | .dadD => dadD | .dadH => dadH | .dadSp => dadSp | .subR src => subR src | .sbbR src => sbbR src | .subM => subM
  | .sbbM => sbbM | .sui data => sui data | .sbi data => sbi data | .anaR src => anaR src | .xraR src => xraR src
  | .oraR src => oraR src | .cmpR src => cmpR src | .anaM => anaM | .xraM => xraM | .oraM => oraM | .cmpM => cmpM
  | .ani data => ani data | .xri data => xri data | .ori data => ori data | .cpi data => cpi data | .rlc => rlc | .rrc => rrc
  | .ral => ral | .rar => rar | .cma => cma | .stc => stc | .cmc => cmc | .daa => daa | .ei => ei | .di => di | .nop => nop
  | .hlt => hlt | .rim => rim | .sim => sim

/-- No instruction is longer than three bytes (R70, R75). -/
theorem instrLength_le {op : Byte} {n : Nat} (h : instrLength op = some n) : n ≤ 3 := by
  unfold instrLength at h
  split_ifs at h <;> cases h <;> decide

/-- An instruction has no operand byte, one, or two, as its first byte announces. -/
theorem operandBytes_cases {i : Instr} (hw : i.wellFormed = true) :
    (operandBytes i = [] ∧ instrLength (opcodeOf i) = some 1)
    ∨ (∃ b2, operandBytes i = [b2] ∧ instrLength (opcodeOf i) = some 2)
    ∨ ∃ b2 b3, operandBytes i = [b2, b3] ∧ instrLength (opcodeOf i) = some 3 := by
  have hl := encodedLength i hw
  have hle := instrLength_le hl
  rw [encode] at hl hle
  rcases hb : operandBytes i with _ | ⟨b2, _ | ⟨b3, _ | ⟨b4, rest⟩⟩⟩ <;> rw [hb] at hl hle
  · exact .inl ⟨rfl, hl⟩
  · exact .inr (.inl ⟨b2, rfl, hl⟩)
  · exact .inr (.inr ⟨b2, b3, rfl, hl⟩)
  · simp only [List.length_cons] at hle
    omega

/-- The decoder takes the operand bytes it is given. -/
theorem decodedAs_encode {i : Instr} (hw : i.wellFormed = true) {b2 b3 : Byte}
    (hb : [b2, b3].take (operandBytes i).length = operandBytes i) (rest : List Byte) :
    decodedAs (opcodeOf i) b2 b3 rest = .ok i rest := by
  rw [decodedAs, instrOf_encode hw hb]

/-- Decoding what the encoder wrote gives the instruction back, whatever stands after it (R76, R82). -/
theorem decode_encode {i : Instr} (hw : i.wellFormed = true) (rest : List Byte) :
    decode (encode i ++ rest) = .ok i rest := by
  rcases operandBytes_cases hw with ⟨hb, hl⟩ | ⟨b2, hb, hl⟩ | ⟨b2, b3, hb, hl⟩ <;>
    simp only [encode, hb, List.cons_append, List.nil_append, decode, hl] <;>
    exact decodedAs_encode hw (by rw [hb]; rfl) rest

theorem decodeOne_encode {i : Instr} (hw : i.wellFormed = true) : decodeOne (encode i) = some i := by
  rw [decodeOne, show decode (encode i) = .ok i [] by simpa using decode_encode hw []]

/-! The fetch where the outside keeps still. -/

/-- One byte further, with these machine cycles in the log. -/
def State.fetchedIn (s : State) (cycles : List BusEvent) : State := { s with pc := s.pc + 1, bus := cycles ++ s.bus }

theorem State.Undisturbed.fetchedIn {s : State} (h : s.Undisturbed) (c : List BusEvent) : (s.fetchedIn c).Undisturbed := h

section

variable {s : State} {b : Byte}

theorem State.fetchOpcode_memory (h : s.Undisturbed) (hk : s.kindAt s.pc = .ram ∨ s.kindAt s.pc = .rom)
    (hv : s.peek s.pc = b) : s.fetchOpcode = (b, s.fetchedIn [.opcodeFetch s.pc b]) := by
  rw [State.fetchOpcode, State.opcodeFetch_memory h hk hv]
  rfl

theorem State.fetchOperand_memory (h : s.Undisturbed) (hk : s.kindAt s.pc = .ram ∨ s.kindAt s.pc = .rom)
    (hv : s.peek s.pc = b) : s.fetchOperand = (b, s.fetchedIn [.memRead s.pc b]) := by
  rw [State.fetchOperand, State.memRead_memory h hk hv]
  rfl

/-- Byte 3 is read unless it belongs to an untaken jump or call; it is the byte that stands there either way (R141, R156). -/
theorem State.fetchThird_memory (h : s.Undisturbed) (hk : s.kindAt s.pc = .ram ∨ s.kindAt s.pc = .rom)
    (hv : s.peek s.pc = b) (op : Byte) :
    s.fetchThird op = (b, s.fetchedIn (if isUntaken op s.flags then [] else [.memRead s.pc b])) := by
  unfold State.fetchThird
  split
  · rw [State.skipOperand, hv]
    rfl
  · exact State.fetchOperand_memory h hk hv

end

/-- The bytes of an instruction that stand at `pc` are fetched whole, `pc` moving past them (R13, R72). -/
theorem State.fetch_encoded {s : State} {i : Instr} (hw : i.wellFormed = true) (h : s.Undisturbed)
    (hm : s.HoldsBytes s.pc (encode i)) :
    s.fetch = (encode i, { s with pc := s.pc + BitVec.ofNat 16 (encode i).length, bus := s.fetchCycles i ++ s.bus }) := by
  rcases operandBytes_cases hw with ⟨hb, hl⟩ | ⟨b2, hb, hl⟩ | ⟨b2, b3, hb, hl⟩ <;>
    simp only [State.fetch, State.fetchCycles, encode, hb] at hm ⊢
  · obtain ⟨hk1, hv1, -⟩ := hm
    rw [State.fetchOpcode_memory h hk1 hv1]
    simp only [hl]
    rfl
  · obtain ⟨hk1, hv1, hk2, hv2, -⟩ := hm
    rw [State.fetchOpcode_memory h hk1 hv1]
    simp only [hl]
    rw [State.fetchOperand_memory (h.fetchedIn _) hk2 hv2]
    simp [State.fetchedIn, BitVec.add_assoc]
  · obtain ⟨hk1, hv1, hk2, hv2, hk3, hv3, -⟩ := hm
    rw [State.fetchOpcode_memory h hk1 hv1]
    simp only [hl]
    rw [State.fetchOperand_memory (h.fetchedIn _) hk2 hv2, State.fetchThird_memory ((h.fetchedIn _).fetchedIn _) hk3 hv3]
    simp [State.fetchedIn, BitVec.add_assoc]
    split <;> rfl

/-- What stands in memory depends on memory and its map only. -/
theorem State.HoldsBytes.congr {s t : State} {bytes : List Byte} {a : Word} (h : s.HoldsBytes a bytes) (hm : t.mem = s.mem)
    (hk : t.memMap = s.memMap) : t.HoldsBytes a bytes := by
  induction bytes generalizing a with
  | nil => trivial
  | cons v rest ih =>
    obtain ⟨hkind, hv, hrest⟩ := h
    exact ⟨by rwa [State.kindAt_of_memMap hk], by rwa [State.peek, hm], ih hrest⟩

/-- What was fetched whole is decoded and run (R13). -/
theorem State.runInstr_decoded {s : State} {i : Instr} (hr : s.fetch.2.resetting = false)
    (hi : decodeOne s.fetch.1 = some i) : s.runInstr = exec i s.fetch.2 := by
  simp only [State.runInstr, hr, hi, Bool.false_eq_true, if_false]

/-- Settles O59: the step is the boundary, and the boundary runs the instruction. -/
theorem stepRunsDecoded : Obligations.StepRunsDecoded := by
  unfold Obligations.StepRunsDecoded
  intro s i u v hreset hf hr hh hfetch hi
  rw [step_boundary hreset, State.boundary_runs hr hh hf]
  exact congrArg finish (State.runInstr_decoded hfetch hi)

/-- Settles O60: the bytes are fetched whole, and they decode to the instruction that was encoded. -/
theorem stepRunsEncoded : Obligations.StepRunsEncoded := by
  unfold Obligations.StepRunsEncoded
  intro s i hw hq hr hh hm
  have hf : s.pastBoundary.fetch = (encode i, s.afterFetch i) :=
    State.fetch_encoded (s := s.pastBoundary) hw hq (hm.congr rfl rfl)
  rw [step_quiet hq, State.boundary_runs hr hh hq.2.2.2, State.runInstr_decoded (i := i), hf]
  · rw [hf]
    exact hq.2.1
  · rw [hf]
    exact decodeOne_encode hw

end Sys2Proof.Machine
end

-- Flags, pins, reset.
section
/-! The flag computations, what a pin does, and RESET IN at a boundary. -/

namespace Sys2Proof.Machine

/-- Settles O19, by `parity8_eq` and the definitions of `szp` and of the eight conditions. -/
theorem paritySzpConditions : Obligations.ParitySzpConditions := by
  unfold Obligations.ParitySzpConditions
  refine ⟨parity8_eq, by decide, by decide, by decide, by decide, fun f v => ?_, fun f => ?_⟩
  · obtain ⟨hs, hz, -⟩ := SzpOf.szp f v
    exact ⟨hs, hz, rfl, rfl, rfl⟩
  · exact ⟨rfl, rfl, rfl, rfl, rfl, rfl, rfl, rfl⟩

/-- Settles O20: the flags stand so in the definitions; the results are computed as numbers and narrowed at the end. -/
theorem adderAndSubtracter : Obligations.AdderAndSubtracter := by
  unfold Obligations.AdderAndSubtracter
  refine ⟨fun a b cin => ⟨BitVec.toNat_ofNat .., rfl, rfl⟩, fun a b bin => ⟨?_, rfl, ?_⟩, by decide⟩
  · have ha := a.isLt
    have hb := b.isLt
    have hbin := bin.toNat_le
    rw [sub8_r_toNat]
    omega
  · simp only [sub8, not_low_half]

/-- Each machine cycle is cut off by a RESET IN before it, or ends where a hold is granted (R335, R352). -/
theorem cycles_end_in_grant (s : State) (a : Word) (v w : Byte) (k : AckCycle) (c : BusEvent) :
    ∀ t ∈ [(s.opcodeFetch a).2, (s.memRead a).2, s.memWrite a v, (s.ioRead v).2, s.ioWrite v w, (s.intaRead k).2,
        s.busIdle c], t.resetting = true ∨ ∃ x : State, t = x.grantHold := by
  simp only [List.forall_mem_cons, List.not_mem_nil, false_implies, implies_true, and_true, State.opcodeFetch,
    State.memRead, State.memWrite, State.ioRead, State.ioWrite, State.intaRead, State.busIdle]
  cases hr : s.awaitBus.resetting
  · exact ⟨.inr ⟨_, rfl⟩, .inr ⟨_, rfl⟩, .inr ⟨_, rfl⟩, .inr ⟨_, rfl⟩, .inr ⟨_, rfl⟩, .inr ⟨_, rfl⟩, .inr ⟨_, rfl⟩⟩
  · exact ⟨.inl hr, .inl hr, .inl hr, .inl hr, .inl hr, .inl hr, .inl hr⟩

/-- Settles O49: the levels by the definition of `setPin`, the machine cycles because each ends in `grantHold`, and the slot
before a boundary because only a halted CPU grants a hold in it. -/
theorem pinEdges : Obligations.PinEdges := by
  unfold Obligations.PinEdges
  refine ⟨fun s level => ⟨?_, ?_, rfl, rfl, rfl, rfl, rfl, ?_⟩, fun s a v w k c t ht hr hp => ?_, fun s => ?_⟩
  · cases level <;> cases hp : s.pins.rst75 <;> simp [State.setPin, hp]
  · cases level <;> cases hp : s.pins.trap <;> simp [State.setPin, hp]
  · cases hp : s.pins.hold <;> simp [State.grantHold, hp]
  · rcases cycles_end_in_grant s a v w k c t ht with hr' | ⟨x, rfl⟩
    · simp [hr'] at hr
    · exact State.grantHold_up hp
  · rcases s.boundarySlot_cases with ⟨hh, e⟩ | ⟨hh, e⟩ <;> rw [e]
    · refine ⟨fun _ => State.grantHold_up, fun hn => ?_⟩
      rw [(OutsideOnly.grantHold s.takeSlot).ctl] at hn
      simp [hh] at hn
    · exact ⟨fun hn => by simp [hh] at hn, fun _ => State.takeSlot_hldaFF⟩

/-! RESET IN at a boundary. -/

/-- Where no RAM loses its contents RESET IN leaves memory as it is (R353). -/
theorem loseFrom_kept (map : List MemRegion) (first base n : Nat) (mem : Memory)
    (h : ∀ k < n, mapLoses map (base + k) = false) : loseFrom map first base n mem = mem := by
  induction n with
  | zero => rfl
  | succ n ih => rw [loseFrom, h n n.lt_succ_self, ih fun k hk => h k (hk.trans n.lt_succ_self)]; rfl

theorem loseRegions_kept (map : List MemRegion) (first : Nat) (regions : List MemRegion) (mem : Memory)
    (h : ∀ a < 65536, mapLoses map a = false) : loseRegions map first regions mem = mem := by
  induction regions with
  | nil => rfl
  | cons r rest ih =>
    rw [loseRegions, ih]
    split
    · exact loseFrom_kept _ _ _ _ _ fun k hk => h _ (by omega)
    · rfl

theorem State.resetMemory_eq {s : State} (h : ∀ x : Word, s.losesAt x = false) : s.resetMemory.mem = s.mem :=
  loseRegions_kept _ _ _ _ fun a ha => by
    have := h (BitVec.ofNat 16 a)
    rwa [State.losesAt, BitVec.toNat_ofNat, Nat.mod_eq_of_lt ha] at this

/-- What the slot before a boundary leaves where RESET IN opens it. -/
theorem State.boundarySlot_reset {s : State} {events : List EnvEvent} {rest : List (List EnvEvent)}
    (h : s.env = (.resetIn :: events) :: rest) :
    ∃ hlda, s.boundarySlot = { s.resetMemory with
      env := events :: rest, resetting := true, bus := .resetOut :: s.bus, ctl := { s.ctl with hldaFF := hlda } } := by
  have ht : s.takeSlot = { s.resetMemory with env := events :: rest, resetting := true, bus := .resetOut :: s.bus } := by
    rw [State.takeSlot, h]
    rfl
  rcases s.boundarySlot_cases with ⟨-, e⟩ | ⟨-, e⟩ <;> rw [e, ht]
  · unfold State.grantHold
    split <;> exact ⟨_, rfl⟩
  · exact ⟨_, rfl⟩

/-- Settles O46: RESET IN opens the slot before the boundary, and nothing follows it there but the reset itself. -/
theorem resetIn : Obligations.ResetIn := by
  unfold Obligations.ResetIn
  intro s events rest h
  obtain ⟨hlda, e⟩ := State.boundarySlot_reset h
  refine ⟨s.boundarySlot.afterReset, ?_, ?_, fun x hx => ?_, fun _ hx => ?_⟩
  · simp only [step, State.cpuStep, e, if_true]
  · rw [e]
    cases hs : s.ctl.sod <;> simp [State.afterReset, Control.afterReset, sodChange, hs]
  · rw [e]
    exact s.resetMemory_kept hx
  · rw [e]
    exact State.resetMemory_eq hx

end Sys2Proof.Machine
end

-- Halt and hold.
section
/-! A CPU that waits, halted or held, and what it accepts meanwhile (spec 60_exceptions.md R322, R330, R335). -/

namespace Sys2Proof.Machine

/-- The outside only adds to the log. -/
theorem OutsideOnly.bus_grows {s t : State} (h : OutsideOnly s t) : ∃ new, t.bus = new ++ s.bus := by
  obtain ⟨-, new, hnew, -⟩ := h.memory
  exact ⟨new, hnew⟩

/-- Where no RESET IN is under way at the end, none was before. -/
theorem OutsideOnly.not_resetting {s t : State} (h : OutsideOnly s t) (ht : t.resetting = false) : s.resetting = false :=
  Bool.eq_false_iff.mpr fun hs => by simp [h.resetting hs] at ht

/-- A BUS IDLE cycle that no RESET IN cuts off stands in the log (R50). -/
theorem State.busIdle_log {s : State} {c : BusEvent} (h : (s.busIdle c).resetting = false) :
    ∃ later earlier, (s.busIdle c).bus = later ++ c :: earlier ++ s.bus := by
  obtain ⟨earlier, he⟩ := (OutsideOnly.awaitBus s).bus_grows
  unfold State.busIdle at h ⊢
  simp only at h ⊢
  split at h
  · next hr => simp [hr] at h
  · next hr =>
    obtain ⟨later, hl⟩ := (OutsideOnly.endCycle s.awaitBus c).bus_grows
    refine ⟨later, earlier, ?_⟩
    rw [if_neg hr, hl, he]
    simp

@[simp] theorem State.grantHold_bus (s : State) : s.grantHold.bus = s.bus := by
  unfold State.grantHold
  split <;> rfl

@[simp] theorem State.blurWrite_bus (s : State) (a : Word) : (s.blurWrite a).bus = s.bus := by
  unfold State.blurWrite
  split <;> rfl

/-- A MEMORY WRITE that no RESET IN keeps from starting stands in the log (R46). -/
theorem State.memWrite_log {s : State} {a : Word} {v : Byte} (h : (s.memWrite a v).resetting = false) :
    ∃ later earlier, (s.memWrite a v).bus = later ++ .memWrite a v :: earlier ++ s.bus := by
  obtain ⟨earlier, he⟩ := (OutsideOnly.awaitBus s).bus_grows
  unfold State.memWrite at h ⊢
  simp only at h ⊢
  split at h
  · next hr => simp [hr] at h
  · next hr =>
    obtain ⟨later, hl⟩ := (OutsideOnly.runCycle (s.awaitBus.poke a v) (.memWrite a v)).bus_grows
    refine ⟨later, earlier, ?_⟩
    rw [if_neg hr, State.grantHold_bus, State.blurWrite_bus, hl, State.poke_bus, he]
    simp

/-- The log of an entry that no RESET IN cuts off: BUS IDLE, then the two writes of the push, with what the outside does before,
between and after them (R54, R315). -/
theorem State.enterRestart_log {s : State} {src : Restart} (h : (s.enterRestart src).resetting = false) :
    ∃ before held between after : List BusEvent,
      (s.enterRestart src).bus = after ++ .memWrite (s.sp - 2) (loByte s.pc) :: between
        ++ .memWrite (s.sp - 1) (hiByte s.pc) :: held ++ .idleAck :: before ++ s.bus := by
  have hidle := OutsideOnly.busIdle (s.accepting src) .idleAck (fun _ => rfl) fun _ => rfl
  generalize hx : (s.accepting src).busIdle .idleAck = x at hidle
  have hsp : x.sp = s.sp := by rw [hidle.sp, State.accepting_sp]
  have he : s.enterRestart src = { x.push16 s.pc with pc := src.address } := by rw [State.enterRestart, hx]
  have hwrite := OutsideOnly.memWrite x (x.sp - 1) (hiByte s.pc)
  have hr₂ : ((x.memWrite (x.sp - 1) (hiByte s.pc)).memWrite (x.sp - 2) (loByte s.pc)).resetting = false := by
    rw [he] at h
    exact h
  have hr₁ := (OutsideOnly.memWrite _ _ _).not_resetting hr₂
  have hr₀ := hwrite.not_resetting hr₁
  obtain ⟨after, between, h₂⟩ := State.memWrite_log hr₂
  obtain ⟨later, held, h₁⟩ := State.memWrite_log hr₁
  obtain ⟨idle, before, h₀⟩ := State.busIdle_log (hx ▸ hr₀)
  rw [hx, State.accepting_state] at h₀
  refine ⟨before, held ++ idle, between ++ later, after, ?_⟩
  have hb : (s.enterRestart src).bus = ((x.memWrite (x.sp - 1) (hiByte s.pc)).memWrite (x.sp - 2) (loByte s.pc)).bus := by
    rw [he]
    rfl
  rw [hb, h₂, h₁, h₀, hsp]
  simp

/-- A result while RESET IN is under way ends in the reset state (R352). -/
theorem finish_reset {t : State} (h : t.resetting = true) : finish (.next t) = .next t.afterReset := by
  simp only [finish, h, if_true]

/-- What an entry leaves of the CPU, whatever the outside does in its machine cycles (R315, R319). -/
theorem State.enterRestart_cpu (s : State) (src : Restart) :
    (s.enterRestart src).pc = src.address ∧ (s.enterRestart src).sp = s.sp - 2 ∧ (s.enterRestart src).regs = s.regs
      ∧ (s.enterRestart src).flags = s.flags ∧ (s.enterRestart src).ctl.halted = false
      ∧ (s.enterRestart src).ctl.ie = false ∧ (s.enterRestart src).ctl.eiInh = s.ctl.eiInh := by
  obtain ⟨u, hu, e⟩ := s.enterRestart_spec src
  rw [e]
  refine ⟨rfl, rfl, ?_, ?_, ?_⟩
  · exact hu.regs.trans (by rw [State.accepting_state])
  · exact hu.flags.trans (by rw [State.accepting_state])
  · show u.ctl.halted = false ∧ u.ctl.ie = false ∧ u.ctl.eiInh = s.ctl.eiInh
    rw [hu.ctl, State.accepting_ctl]
    exact ⟨rfl, rfl, rfl⟩

/-- Settles O45: with nothing recognized the boundary leaves a halted or held CPU as it is; with a restart recognized the entry
is followed through its three machine cycles. -/
theorem haltAndHoldWait : Obligations.HaltAndHoldWait := by
  unfold Obligations.HaltAndHoldWait
  refine ⟨fun s hq hh hr => ?_, fun s hreset hf hr => ⟨.boundarySlot s, ?_⟩, fun s src hreset hr => ?_, fun s hreset hr => ?_⟩
  · rw [step_quiet hq, State.boundary_halted hr hh]
    exact finish_next hq.2.1
  · rw [step_boundary hreset]
    cases hh : s.boundarySlot.ctl.halted
    · rw [State.boundary_held hr hh hf]
      exact finish_next hreset
    · rw [State.boundary_halted hr hh]
      exact finish_next hreset
  · rw [step_boundary hreset, State.boundary_restart hr]
    cases ht : (s.boundarySlot.pastBoundary.enterRestart src).resetting
    · have hu := OutsideOnly.boundarySlot s
      obtain ⟨hpc, hsp, hregs, hflags, hhalted, hie, heiInh⟩ := s.boundarySlot.pastBoundary.enterRestart_cpu src
      obtain ⟨before, held, between, after, hlog⟩ := State.enterRestart_log ht
      obtain ⟨slot, hslot⟩ := hu.bus_grows
      refine ⟨_, finish_next ht, .inr ⟨?_, ?_, hregs.trans hu.regs, hflags.trans hu.flags, hhalted, hie, heiInh,
        before ++ slot, held, between, after, ?_⟩⟩
      · rw [hpc]
        cases src <;> rfl
      · rw [hsp, ← hu.sp]
        rfl
      · rw [hlog, ← hu.sp, ← hu.pc, State.pastBoundary, hslot]
        simp
    · exact ⟨_, finish_reset ht, .inl ⟨_, rfl⟩⟩
  · rw [step_boundary hreset, State.boundary_intr hr]
    rfl

end Sys2Proof.Machine
end

-- Memory.
section
/-! Memory and the stack: what the log of a step says of memory, what each kind of memory does with a byte, and what push and
pop do (spec 20_memory.md R40, R45, R46, R54, R55, R59). -/

namespace Sys2Proof.Machine

/-- A boundary touches memory through logged machine cycles only, whatever it accepts or runs (R310). -/
theorem State.boundary_memory {u w : State} (h : u.boundary = .next w) : MemoryAsLogged u w := by
  have hp : MemoryAsLogged u u.pastBoundary := .of_eq rfl rfl rfl
  rcases State.boundary_effect h with ⟨src, -, hw⟩ | ⟨-, tie, n, hw⟩ | ⟨-, rfl | rfl⟩ | ⟨-, -, hw | ⟨i, -, hw⟩⟩
  · have ha : MemoryAsLogged u.pastBoundary (u.pastBoundary.accepting src) := by
      rw [State.accepting_state]
      exact .of_eq rfl rfl rfl
    exact (hp.trans ha).trans hw.memory
  · have ha : MemoryAsLogged u (u.pastBoundary.acceptingIntr tie n) := .of_eq rfl rfl rfl
    exact ha.trans hw.memory
  · exact hp
  · exact .refl _
  · exact hp.trans hw.memory
  · exact (hp.trans (WritesOnly.fetch i u.pastBoundary).memory).trans (exec_writesOnly hw).memory

/-- Settles O51: the slot before the boundary, the boundary and a RESET IN that ends the step each leave memory as the log says,
and so do they one after the other. -/
theorem memoryOnlyThroughBus : Obligations.MemoryOnlyThroughBus := by
  unfold Obligations.MemoryOnlyThroughBus
  intro s t h
  have hu := (OutsideOnly.boundarySlot s).memory
  rcases step_cases h with ⟨-, rfl⟩ | ⟨-, w, hb, ⟨-, rfl⟩ | ⟨-, rfl⟩⟩
  · exact hu.trans (.afterReset _)
  · exact (hu.trans (State.boundary_memory hb)).trans (.afterReset w)
  · exact hu.trans (State.boundary_memory hb)

/-- Settles O5: both operations are two machine cycles where the outside keeps still, and the two addresses of a push differ. -/
theorem stackOperations : Obligations.StackOperations := by
  unfold Obligations.StackOperations
  refine fun s hq => ⟨fun v => ?_, State.pop16_eq hq⟩
  have hpush := State.push16_quiet hq v
  exact ⟨.of_mem (word_push_addresses_ne s.sp) (by rw [hpush]), by rw [hpush]; rfl⟩

/-- The canonical form lists no address past the last one, FFFFH (R40). -/
theorem Memory.get_above {lo : Nat} {m : Memory} (h : m.wfFrom lo = true) {k : Nat} (hk : 65536 ≤ k) :
    m.get k = Memory.unlisted := by
  induction m generalizing lo with
  | nil => rfl
  | cons c m ih =>
    obtain ⟨a, v⟩ := c
    simp only [Memory.wfFrom, Bool.and_eq_true, decide_eq_true_eq] at h
    obtain ⟨⟨⟨-, ha⟩, -⟩, hm⟩ := h
    rw [Memory.get, if_neg (by omega)]
    exact ih hm

/-- Settles O54: equal at the 65536 addresses and with nothing listed past them, the two memories read alike everywhere. -/
theorem memoryIsItsContents : Obligations.MemoryIsItsContents := by
  unfold Obligations.MemoryIsItsContents
  intro s t hs ht h
  refine Memory.eq_of_get hs ht fun k => ?_
  rcases Nat.lt_or_ge k 65536 with hk | hk
  · have ha := h (BitVec.ofNat 16 k)
    rwa [State.peek, State.peek, BitVec.toNat_ofNat, Nat.mod_eq_of_lt hk] at ha
  · rw [Memory.get_above hs hk, Memory.get_above ht hk]

/-- A device answers a read with what it drives (R42, R45). -/
theorem State.readByte_device {s : State} {a : Word} (h : s.kindAt a = .device) : s.readByte a = s.readDevice a := by
  rw [State.readByte, h]

/-- Nothing answers a read at an absent address: a free byte, one draw (D5). -/
theorem State.readByte_absent {s : State} {a : Word} (h : s.kindAt a = .absent) : s.readByte a = s.draw8 := by
  rw [State.readByte, h]

/-- A read by the other master, which has the bus, finds the byte the CPU would find (R58, R59). -/
theorem State.masterAccess_memRead {s : State} (h : s.ctl.hldaFF = true) (a : Word) :
    s.masterAccess (.memRead a) = { s.afterRead a with bus := .master (.memRead a (s.busByte a)) :: s.bus } := by
  simp only [State.masterAccess, h, if_true, State.masterCycle, State.readByte_bus, State.afterRead, State.busByte]

/-- What a MEMORY WRITE does to memory where the outside keeps still (R46). -/
theorem State.memWrite_storesByte {s : State} (h : s.Undisturbed) (a : Word) (v : Byte) :
    StoresByte s (s.memWrite a v) a v := by
  rw [State.memWrite_quiet h]
  exact StoresByte.poke s a v

/-- Settles O50: one read for each kind of memory, and one write for RAM and for what is not RAM. -/
theorem memoryKinds : Obligations.MemoryKinds := by
  unfold Obligations.MemoryKinds
  refine fun s a => ⟨fun hk => ?_, fun hk => ?_, fun hk => ?_, fun hm => State.masterAccess_memRead hm a,
    fun hk v => ⟨s.peek_poke_ram a v hk, fun x hx => s.peek_poke_other a x v hx⟩, fun hk v => s.poke_not_ram a v hk,
    fun hq v => ⟨by rw [State.memWrite_quiet hq]; rfl, State.memWrite_storesByte hq a v⟩⟩
  · simp only [State.busByte, State.afterRead, State.readByte_memory s a hk, and_self]
  · simp only [State.busByte, State.afterRead, State.readByte_device hk, State.readDevice]
    refine ⟨fun v hv => ?_, fun hv => ?_⟩ <;> rw [hv]
    · exact ⟨rfl, rfl⟩
    · rfl
  · simp only [State.busByte, State.afterRead, State.readByte_absent hk]
    rfl

end Sys2Proof.Machine
end

-- What decodes.
section
/-! What decodes is the encoding of a well-formed instruction (spec 30_encoding.md R77 to R81), and the first bytes that do not
decode. -/

namespace Sys2Proof.Machine

/-- Settles O55: the length announced is that of the encoding, and the bytes so taken select the instruction. -/
theorem decodeEncode : Obligations.DecodeEncode := by
  unfold Obligations.DecodeEncode
  exact fun _ rest hw => decode_encode hw rest

/-! The other direction: each quarter of the map of R77 answers only what its first byte encodes. -/

/-- What it means that the first byte `op`, with `b2` and `b3` after it, is rightly read as `i`: `i` is well formed, and its
encoding is `op` and as many of the two as it has operand bytes. -/
structure ReadAs (op b2 b3 : Byte) (i : Instr) : Prop where
  wellFormed : i.wellFormed = true
  opcode : opcodeOf i = op
  operands : operandBytes i <+: [b2, b3]

theorem opcodeByte_fields (op : Byte) : opcodeByte (quarterField op) (midField op) (lowField op) = op := by
  revert op
  decide

theorem field_eq {w k : Nat} {c : BitVec w} (h : c.toNat = k) : c = BitVec.ofNat w k := by
  rw [← h, BitVec.ofNat_toNat, BitVec.setWidth_eq]

/-- A field that holds none of the other values holds the last: the last row or column of a map (R77). -/
theorem field_last {w : Nat} {c : BitVec w} (h : ∀ k < 2 ^ w - 1, c.toNat ≠ k) : c.toNat = 2 ^ w - 1 := by
  have hc := c.isLt
  by_contra hne
  exact h c.toNat (by omega) rfl

/-- The register a field names is the one with that code (R11). -/
theorem Reg.code_of_ofCode {c : BitVec 3} {r : Reg} (h : Reg.ofCode c = some r) : r.code = c := by
  revert c r
  decide

/-- Only 110 names no register (R11). -/
theorem Reg.eq_of_ofCode_none {c : BitVec 3} (h : Reg.ofCode c = none) : c = 0b110#3 := by
  revert c
  decide

section

variable {b2 b3 : Byte} {i j : Instr} {quarter : BitVec 2} {mid low c : BitVec 3} {k l : Nat}

theorem ReadAs.of_fields (hm : mid.toNat = k) (hl : low.toNat = l)
    (h : ReadAs (opcodeByte quarter (BitVec.ofNat 3 k) (BitVec.ofNat 3 l)) b2 b3 i) :
    ReadAs (opcodeByte quarter mid low) b2 b3 i := by
  rwa [field_eq hm, field_eq hl]

/-- A row with a register field is rightly read when its register form is, and at 110 its M form (R79). -/
theorem ReadAs.of_withReg {op : BitVec 3 → Byte} {f : Reg → Instr} (h : withReg c (some j) f = some i)
    (hf : ∀ r : Reg, ReadAs (op r.code) b2 b3 (f r)) (hj : ReadAs (op 0b110#3) b2 b3 j) : ReadAs (op c) b2 b3 i := by
  unfold withReg at h
  split at h <;> cases h
  · next r hr => exact Reg.code_of_ofCode hr ▸ hf r
  · next hr => exact Reg.eq_of_ofCode_none hr ▸ hj

/-- The shapes 00 xxx xxx (R71): INR, DCR and MVI have a register row, the other columns one instruction a row. -/
theorem ReadAs.quarter0 (h : decodeQuarter0 mid low b2 b3 = some i) : ReadAs (opcodeByte 0b00#2 mid low) b2 b3 i := by
  unfold decodeQuarter0 at h
  split at h
  case h_5 hl | h_6 hl | h_7 hl =>
    obtain rfl := field_eq hl
    exact .of_withReg (op := (opcodeByte _ · _)) h (fun r => ⟨rfl, rfl, by simp [operandBytes]⟩)
      ⟨rfl, rfl, by simp [operandBytes]⟩
  case h_8 =>
    have hl : low.toNat = 7 := field_last (by grind)
    split at h <;> cases h
    all_goals exact .of_fields ‹_› hl ⟨rfl, rfl, by simp [operandBytes]⟩
  all_goals
    split at h <;> cases h
    all_goals exact .of_fields ‹_› ‹_› ⟨rfl, rfl, by simp [operandBytes]⟩

/-- The shape 01 DDD SSS (R71): MOV, and HLT where both fields are 110 (R79). -/
theorem ReadAs.quarter1 (h : decodeQuarter1 mid low = some i) : ReadAs (opcodeByte 0b01#2 mid low) b2 b3 i := by
  unfold decodeQuarter1 at h
  split at h
  · next dst hd =>
    obtain rfl := Reg.code_of_ofCode hd
    exact .of_withReg h (fun src => ⟨rfl, rfl, by simp [operandBytes]⟩) ⟨rfl, rfl, by simp [operandBytes]⟩
  · next hd =>
    obtain rfl := Reg.eq_of_ofCode_none hd
    exact .of_withReg h (fun src => ⟨rfl, rfl, by simp [operandBytes]⟩) ⟨rfl, rfl, by simp [operandBytes]⟩

/-- The shape 10 ooo SSS (R71): eight operations, each with a register row. -/
theorem ReadAs.quarter2 (h : decodeQuarter2 mid low = some i) : ReadAs (opcodeByte 0b10#2 mid low) b2 b3 i := by
  unfold decodeQuarter2 at h
  split at h
  case h_8 =>
    obtain rfl : mid = 7#3 := field_eq (field_last (by grind))
    exact .of_withReg h (fun r => ⟨rfl, rfl, by simp [operandBytes]⟩) ⟨rfl, rfl, by simp [operandBytes]⟩
  all_goals
    obtain rfl := field_eq ‹mid.toNat = _›
    exact .of_withReg h (fun r => ⟨rfl, rfl, by simp [operandBytes]⟩) ⟨rfl, rfl, by simp [operandBytes]⟩

/-- The shapes 11 xxx xxx (R71): RST in the last column, the other columns one instruction a row. -/
theorem ReadAs.quarter3 (h : decodeQuarter3 mid low b2 b3 = some i) : ReadAs (opcodeByte 0b11#2 mid low) b2 b3 i := by
  unfold decodeQuarter3 at h
  split at h
  case h_8 =>
    obtain rfl : low = 7#3 := field_eq (field_last (by grind))
    cases h
    exact ⟨decide_eq_true mid.isLt, by rw [opcodeOf, ← field_eq rfl], by simp [operandBytes]⟩
  all_goals
    split at h <;> cases h
    all_goals exact .of_fields ‹_› ‹_› ⟨rfl, rfl, by simp [operandBytes]⟩

end

/-- What a first byte selects, its encoding has as first byte (R71, R76). -/
theorem ReadAs.of_instrOf {op b2 b3 : Byte} {i : Instr} (h : instrOf op b2 b3 = some i) : ReadAs op b2 b3 i := by
  rw [← opcodeByte_fields op]
  unfold instrOf at h
  split at h
  · next hq => exact field_eq hq ▸ .quarter0 h
  · next hq => exact field_eq hq ▸ .quarter1 h
  · next hq => exact field_eq hq ▸ .quarter2 h
  · have hq : (quarterField op).toNat = 3 := field_last (by grind)
    exact field_eq hq ▸ .quarter3 h

theorem decodedAs_ok {op b2 b3 : Byte} {after rest : List Byte} {i : Instr} (h : decodedAs op b2 b3 after = .ok i rest) :
    instrOf op b2 b3 = some i ∧ after = rest := by
  unfold decodedAs at h
  split at h <;> cases h
  exact ⟨‹_›, rfl⟩

/-- What the decoder answers it has read from a first byte and as many bytes after it as that byte announces (R75, R82). -/
theorem decode_reads {bytes rest : List Byte} {i : Instr} (h : decode bytes = .ok i rest) :
    ∃ op b2 b3 n, instrLength op = some (n + 1) ∧ instrOf op b2 b3 = some i ∧ bytes = op :: ([b2, b3].take n ++ rest) := by
  unfold decode at h
  split at h
  · cases h
  next op tail =>
  split at h
  · cases h
  · next b2 after hl =>
    obtain ⟨hi, rfl⟩ := decodedAs_ok h
    exact ⟨op, b2, 0, 1, hl, hi, rfl⟩
  · next b2 b3 after hl =>
    obtain ⟨hi, rfl⟩ := decodedAs_ok h
    exact ⟨op, b2, b3, 2, hl, hi, rfl⟩
  · next hl =>
    obtain ⟨hi, rfl⟩ := decodedAs_ok h
    exact ⟨op, 0, 0, 0, hl, hi, rfl⟩
  · cases h

/-- Settles O56: the bytes read are the first byte of the instruction and its operand bytes, as many as announced. -/
theorem encodeDecode : Obligations.EncodeDecode := by
  unfold Obligations.EncodeDecode
  intro bytes i rest h
  obtain ⟨op, b2, b3, n, hl, hi, rfl⟩ := decode_reads h
  obtain ⟨hw, rfl, hb⟩ := ReadAs.of_instrOf hi
  obtain rfl : n = (operandBytes i).length := by simpa [encode] using hl.symm.trans (encodedLength i hw)
  rw [← List.prefix_iff_eq_take.mp hb]
  exact ⟨hw, rfl⟩

/-! First bytes that do not decode. -/

/-- A first byte that announces no length is rejected, whatever follows it (R80). -/
theorem decode_undefined {op : Byte} (h : instrLength op = none) (rest : List Byte) :
    decode (op :: rest) = .undefinedOpcode op := by
  simp only [decode, h]

/-- Of an instruction with an undefined first byte only that byte is fetched. -/
theorem State.fetch_undefined {s : State} {op : Byte} (h : s.Undisturbed) (hm : s.HoldsBytes s.pc [op])
    (hl : instrLength op = none) : s.fetch = ([op], s.fetchedIn [.opcodeFetch s.pc op]) := by
  obtain ⟨hk, hv, -⟩ := hm
  simp only [State.fetch, State.fetchOpcode_memory h hk hv, hl]

/-- What does not decode is refused by its first byte (R80). -/
theorem State.runInstr_undefined {s : State} {op : Byte} (h : s.Undisturbed) (hm : s.HoldsBytes s.pc [op])
    (hl : instrLength op = none) : s.runInstr = .refused (.undefinedOpcode op) := by
  have hr : (s.fetchedIn [.opcodeFetch s.pc op]).resetting = false := h.2.1
  simp [State.runInstr, State.fetch_undefined h hm hl, hr, decodeOne, decode_undefined hl]

/-- The ten first bytes without a row in Table 6-1 announce no length (R80). -/
theorem instrLength_undefined {op : Byte} (h : op ∈ undefinedOpcodes) : instrLength op = none := by
  rw [instrLength, if_pos (List.contains_iff_mem.mpr h)]

/-- Settles O57: the ten bytes announce no length, so the decoder rejects them, and the step fetches that one byte and refuses
it. -/
theorem undefinedAndLength : Obligations.UndefinedAndLength := by
  unfold Obligations.UndefinedAndLength
  refine ⟨encodedLength, fun op hop => ?_⟩
  have hl : instrLength op = none := instrLength_undefined hop
  refine ⟨decode_undefined hl, fun s hq hr hh hm => ?_⟩
  rw [step_quiet hq, State.boundary_runs hr hh hq.2.2.2,
    State.runInstr_undefined (s := s.pastBoundary) hq (hm.congr rfl rfl) hl]
  rfl

/-- Settles O58: each word is the encoding of its instruction. -/
theorem decodeWords : Obligations.DecodeWords := by
  unfold Obligations.DecodeWords
  exact ⟨decode_encode (i := .movRR .a .b) rfl [], decode_encode (i := .mviR .a 0x42) rfl [],
    decode_encode (i := .lxiH 0x2050) rfl [], decode_encode (i := .jmp 0x3E00) rfl [], decode_encode (i := .rst 5) rfl [],
    decode_encode (i := .inPort 0x21) rfl [], decode_encode (i := .hlt) rfl [], decode_encode (i := .addR .d) rfl []⟩

end Sys2Proof.Machine
end

-- Move, load and store.
section
/-! What the moves do in any state, and the loads and stores where the outside keeps still (spec 40_move_load_store.md,
41_stack_ops.md R129, R130): each is one register or pair written, one MEMORY WRITE or one MEMORY READ, or two of one kind. -/

namespace Sys2Proof.Machine

variable {i : Instr} {s t u : State}

theorem CompletesTo.of_mem (h : exec i s = .next t) (hm : t.mem = s.mem) : CompletesTo i s t := ⟨h, .of_mem hm⟩

/-- An instruction that ends by writing one register, nothing else of registers and memory having changed before: that
register takes the value, and the other registers and memory stay (R11). -/
theorem completesTo_setReg {r : Reg} {v : Byte} (h : exec i s = .next (u.setReg r v)) (hr : u.regs = s.regs)
    (hm : u.mem = s.mem) :
    ∃ t, CompletesTo i s t ∧ t = { u with regs := t.regs } ∧ t.regs.get r = v
      ∧ ∀ r', r' ≠ r → t.regs.get r' = s.regs.get r' := by
  refine ⟨u.setReg r v, .of_mem h hm, rfl, Regs.get_set_same u.regs r v, fun r' hne => ?_⟩
  rw [← hr]
  exact Regs.get_set_other u.regs r r' v hne

/-- An instruction that is one MEMORY WRITE (R46). -/
theorem StoresOnly.of_memWrite {a : Word} {v : Byte} (hq : s.Undisturbed) (h : exec i s = .next (s.memWrite a v)) :
    StoresOnly i s a v :=
  ⟨_, h, by rw [State.memWrite_quiet hq]; rfl, State.memWrite_storesByte hq a v⟩

/-- An instruction that is one MEMORY READ into A (R45). -/
theorem CompletesTo.of_memRead_setA {a : Word} (hq : s.Undisturbed)
    (h : exec i s = .next ((s.memRead a).2.setA (s.memRead a).1)) :
    CompletesTo i s { s.afterRead a with regs := { s.regs with a := s.busByte a } } := by
  rw [State.memRead_eq hq] at h
  refine .of_mem (h.trans ?_) (s.afterRead_mem a)
  rw [State.setA, State.afterRead_regs]

/-- Settles O2: each of the five is one MEMORY WRITE. -/
theorem byteStores : Obligations.ByteStores := by
  unfold Obligations.ByteStores
  exact fun s hq => ⟨fun _ => .of_memWrite hq rfl, fun _ => .of_memWrite hq rfl, .of_memWrite hq rfl, .of_memWrite hq rfl,
    fun _ => .of_memWrite hq rfl⟩

/-- Settles O3: each of the four is one MEMORY READ, whose byte then goes to a register. -/
theorem byteLoads : Obligations.ByteLoads := by
  unfold Obligations.ByteLoads
  refine fun s hq => ⟨fun dst => ?_, .of_memRead_setA hq rfl, .of_memRead_setA hq rfl, fun _ => .of_memRead_setA hq rfl⟩
  have hexec : exec (.movRM dst) s = .next ((s.memRead s.hl).2.setReg dst (s.memRead s.hl).1) := rfl
  rw [State.memRead_eq hq] at hexec
  exact completesTo_setReg hexec (s.afterRead_regs _) (s.afterRead_mem _)

/-- What LHLD does: L from the first read, H from the second (R115). -/
theorem exec_lhld_quiet (hq : s.Undisturbed) (addr : Word) :
    exec (.lhld addr) s = .next { (s.afterRead addr).afterRead (addr + 1) with
      regs := { s.regs with l := s.busByte addr, h := (s.afterRead addr).busByte (addr + 1) } } := by
  show execLhld addr s = _
  simp only [execLhld, State.memRead_eq hq, State.memRead_eq (hq.afterRead addr), State.setPair, State.afterRead_regs,
    hiByte_joinBytes, loByte_joinBytes]

/-- Settles O4: two machine cycles at addresses that differ, L's first. -/
theorem hlDirect : Obligations.HlDirect := by
  unfold Obligations.HlDirect
  refine fun addr s hq => ⟨⟨(s.memWrite addr s.regs.l).memWrite (addr + 1) s.regs.h, rfl, ?_⟩,
    .of_mem (exec_lhld_quiet hq addr) (by simp only [State.afterRead_mem])⟩
  rw [State.memWrite_memWrite_quiet hq]
  exact ⟨rfl, .of_mem (word_ne_succ addr) rfl⟩

/-- What XCHG does: each pair takes the two bytes of the other (R116). -/
theorem exec_xchg (s : State) :
    exec .xchg s = .next { s with
      regs := { s.regs with d := s.regs.h, e := s.regs.l, h := s.regs.d, l := s.regs.e } } := by
  show execXchg s = _
  simp only [execXchg, State.setPair, State.getPair, hiByte_joinBytes, loByte_joinBytes]

/-- Settles O1: each is a write of one register or pair, two for XCHG, and no machine cycle. -/
theorem registerMoves : Obligations.RegisterMoves := by
  unfold Obligations.RegisterMoves
  exact ⟨fun _ _ s => completesTo_setReg (u := s) rfl rfl rfl, fun _ _ s => completesTo_setReg (u := s) rfl rfl rfl,
    fun _ _ => ⟨.of_mem rfl rfl, .of_mem rfl rfl, .of_mem rfl rfl, .of_mem rfl rfl⟩,
    fun s => ⟨.of_mem (exec_xchg s) rfl, .of_mem rfl rfl⟩⟩

end Sys2Proof.Machine
end

-- Stack operations.
section
/-! The pushes, the pops and XTHL where the outside keeps still (spec 41_stack_ops.md R120 to R128): the two machine cycles of
`push16` or of `pop16`, for XTHL two reads and two writes. -/

namespace Sys2Proof.Machine

variable {i : Instr} {s t : State}

@[simp] theorem State.afterPopReads_regs (s : State) : s.afterPopReads.regs = s.regs := by simp [State.afterPopReads]
@[simp] theorem State.afterPopReads_mem (s : State) : s.afterPopReads.mem = s.mem := by simp [State.afterPopReads]
@[simp] theorem State.afterPopReads_memMap (s : State) : s.afterPopReads.memMap = s.memMap := by
  simp [State.afterPopReads]

/-- A push of two bytes joined to a word, `hi` at the higher address (R54). -/
theorem State.push16_joinBytes (hq : s.Undisturbed) (hi lo : Byte) :
    s.push16 (joinBytes hi lo)
        = { s with
            sp := s.sp - 2
            mem := (s.push16 (joinBytes hi lo)).mem
            bus := .memWrite (s.sp - 2) lo :: .memWrite (s.sp - 1) hi :: s.bus }
      ∧ StoresTwo s (s.push16 (joinBytes hi lo)) (s.sp - 1) hi (s.sp - 2) lo := by
  obtain ⟨hstores, hstate⟩ := (stackOperations s hq).1 (joinBytes hi lo)
  rw [hiByte_joinBytes, loByte_joinBytes] at hstores hstate
  exact ⟨hstate, hstores⟩

/-- An instruction that is one `push16` of two registers. -/
theorem Pushes.of_push16 {hi lo : Byte} (hq : s.Undisturbed) (h : exec i s = .next (s.push16 (joinBytes hi lo))) :
    Pushes i s hi lo :=
  ⟨_, h, State.push16_joinBytes hq hi lo⟩

/-- Settles O6: each of the three is one `push16` of its pair. -/
theorem pushPairs : Obligations.PushPairs := by
  unfold Obligations.PushPairs
  exact fun s hq => ⟨.of_push16 hq rfl, .of_push16 hq rfl, .of_push16 hq rfl⟩

/-- The flag byte holds the flags at the bits of R15, whatever stands in the other three. -/
theorem flagByte_bits (s z x5 ac x3 p x1 cy : Bool) :
    (packByte s z x5 ac x3 p x1 cy).getLsbD 7 = s ∧ (packByte s z x5 ac x3 p x1 cy).getLsbD 6 = z
      ∧ (packByte s z x5 ac x3 p x1 cy).getLsbD 4 = ac ∧ (packByte s z x5 ac x3 p x1 cy).getLsbD 2 = p
      ∧ (packByte s z x5 ac x3 p x1 cy).getLsbD 0 = cy := by
  revert s z x5 ac x3 p x1 cy
  decide

/-- What PUSH PSW does: three free bits are drawn, then A and the flag byte with those bits are pushed (R123). -/
theorem exec_pushPsw (s : State) :
    ∃ x5 x3 x1 : Bool,
      exec .pushPsw s
        = .next (State.push16 { s with draws := s.draws + 3 } (joinBytes s.regs.a (s.flags.byte x5 x3 x1))) :=
  ⟨_, _, _, rfl⟩

/-- Settles O7: the three draws change nothing but their count, so what `push16` does after them it does to `s`. -/
theorem pushPsw : Obligations.PushPsw := by
  unfold Obligations.PushPsw
  intro s hq
  obtain ⟨x5, x3, x1, hexec⟩ := exec_pushPsw s
  have hdrawn : State.Undisturbed { s with draws := s.draws + 3 } := hq
  obtain ⟨hstate, hstores⟩ := State.push16_joinBytes hdrawn s.regs.a (s.flags.byte x5 x3 x1)
  exact ⟨_, s.flags.byte x5 x3 x1, hexec, hstate, hstores, flagByte_bits ..⟩

/-- An instruction that is one `pop16` into a pair of registers (R55). -/
theorem CompletesTo.of_pop16_setPair {p : Pair} (hq : s.Undisturbed)
    (h : exec i s = .next (s.pop16.2.setPair p s.pop16.1))
    (ht : State.setPair { s.afterPopReads with sp := s.sp + 2 } p (joinBytes s.stackHi s.stackLo) = t)
    (hm : t.mem = s.mem) : CompletesTo i s t := by
  rw [State.pop16_eq hq, ht] at h
  exact .of_mem h hm

/-- What POP PSW does: the flags from the first byte read, A from the second (R127). -/
theorem exec_popPsw_quiet (hq : s.Undisturbed) :
    exec .popPsw s = .next { s.afterPopReads with
      sp := s.sp + 2, regs := { s.regs with a := s.stackHi }, flags := Flags.ofByte s.stackLo } := by
  show execPopPsw s = _
  simp only [execPopPsw, State.memRead_eq hq, State.memRead_eq (hq.afterRead s.sp), State.setA, State.afterRead_regs]
  rfl

/-- Settles O8: three of the four are one `pop16` into their pair; POP PSW reads the same two bytes. -/
theorem pops : Obligations.Pops := by
  unfold Obligations.Pops
  intro s hq
  have hmem := s.afterPopReads_mem
  refine ⟨.of_pop16_setPair hq rfl ?_ hmem, .of_pop16_setPair hq rfl ?_ hmem, .of_pop16_setPair hq rfl ?_ hmem,
    .of_mem (exec_popPsw_quiet hq) hmem⟩
  all_goals simp only [State.setPair, State.afterPopReads_regs, hiByte_joinBytes, loByte_joinBytes]

/-- Two bytes stored, named in the other order. -/
theorem StoresTwo.symm {a b : Word} {v w : Byte} (h : StoresTwo s t a v b w) : StoresTwo s t b w a v := by
  obtain ⟨hframe, hav, hbw⟩ := h
  exact ⟨fun x hb ha => hframe x ha hb, hbw, hav⟩

/-- What XTHL does: two reads ascending, two writes descending, and HL takes the bytes read (R128). -/
theorem exec_xthl_quiet (hq : s.Undisturbed) :
    exec .xthl s = .next { s.afterPopReads with
      regs := { s.regs with h := s.stackHi, l := s.stackLo }
      mem := ((s.poke (s.sp + 1) s.regs.h).poke s.sp s.regs.l).mem
      bus := .memWrite s.sp s.regs.l :: .memWrite (s.sp + 1) s.regs.h :: s.afterPopReads.bus } := by
  have hreads : s.afterPopReads.Undisturbed := (hq.afterRead _).afterRead _
  have hexec : exec .xthl s = .next (((s.afterPopReads.memWrite (s.sp + 1) s.regs.h).memWrite s.sp s.regs.l).setPair .hl
      (joinBytes s.stackHi s.stackLo)) := by
    show execXthl s = _
    simp only [execXthl, State.memRead_eq hq, State.memRead_eq (hq.afterRead s.sp)]
    rfl
  rw [hexec, State.memWrite_memWrite_quiet hreads]
  simp [State.setPair, State.poke]

/-- Settles O9: the write at SP comes second, and its address differs from SP + 1. -/
theorem exchangeStackTop : Obligations.ExchangeStackTop := by
  unfold Obligations.ExchangeStackTop
  exact fun s hq => ⟨_, exec_xthl_quiet hq, rfl, (StoresTwo.of_mem (word_ne_succ s.sp).symm rfl).symm⟩

end Sys2Proof.Machine
end

-- Jumps.
section
/-! The jumps (spec 42_jump.md R140 to R149): a conditional jump is `jumpIf`, which writes `pc` or nothing. -/

namespace Sys2Proof.Machine

variable {i : Instr} {s : State}

@[simp] theorem State.jumpIf_mem (s : State) (k : Cond) (addr : Word) : (s.jumpIf k addr).mem = s.mem := by
  unfold State.jumpIf
  split <;> rfl

/-- An instruction that is one `jumpIf`, its condition spelled as a proposition about the state (R20, R141). -/
theorem CompletesTo.of_jumpIf {k : Cond} {addr : Word} {p : Prop} [Decidable p] (h : exec i s = .next (s.jumpIf k addr))
    (hk : k.holds s.flags = true ↔ p) : CompletesTo i s (if p then { s with pc := addr } else s) := by
  have htaken : s.jumpIf k addr = if p then { s with pc := addr } else s := by simp only [State.jumpIf, hk]
  exact htaken ▸ .of_mem h (s.jumpIf_mem k addr)

/-- Settles O11: JMP and PCHL write `pc`; the others are `jumpIf` under the condition of a clear or of a set flag. -/
theorem jumps : Obligations.Jumps := by
  unfold Obligations.Jumps
  intro addr s
  have clear (b : Bool) : (!b) = true ↔ b = false := iff_of_eq (Bool.not_eq_true' b)
  exact ⟨.of_mem rfl rfl,
    .of_jumpIf rfl (clear s.flags.z), .of_jumpIf rfl Iff.rfl,
    .of_jumpIf rfl (clear s.flags.cy), .of_jumpIf rfl Iff.rfl,
    .of_jumpIf rfl (clear s.flags.p), .of_jumpIf rfl Iff.rfl,
    .of_jumpIf rfl (clear s.flags.s), .of_jumpIf rfl Iff.rfl,
    .of_mem rfl rfl⟩

end Sys2Proof.Machine
end

-- Calls, returns and RST n.
section
/-! The calls, the returns and RST n where the outside keeps still (spec 43_call_return_restart.md R155 to R173): a push of `pc`
and a branch, or a pop into `pc`, for the conditional ones under one condition. -/

namespace Sys2Proof.Machine

variable {i : Instr} {s : State} {addr : Word} {k : Cond}

/-- The flag each condition tests, and the value it asks for (R20). -/
theorem Cond.holds_iff (k : Cond) (f : Flags) :
    k.holds f = true ↔ match k with
      | .nz => f.z = false | .z => f.z = true | .nc => f.cy = false | .c => f.cy = true
      | .po => f.p = false | .pe => f.p = true | .p => f.s = false | .m => f.s = true := by
  cases k
  case nz | nc | po | p => exact iff_of_eq (Bool.not_eq_true' _)
  all_goals exact Iff.rfl

/-- An instruction that does one thing under a condition and nothing otherwise, the condition spelled as a proposition about
the state (R20). -/
theorem completes_under_cond {u : State} {p q : Prop} [Decidable p] (hk : k.holds s.flags = true ↔ p)
    (h : exec i s = .next (if k.holds s.flags then u else s)) (hq : exec i s = .next u → q) :
    if p then q else CompletesTo i s s := by
  by_cases hp : p
  · rw [if_pos hp]
    rw [if_pos (hk.mpr hp)] at h
    exact hq h
  · rw [if_neg hp]
    rw [if_neg (mt hk.mp hp)] at h
    exact .of_mem h rfl

/-- An instruction that is one `callTo` (R54, R155). -/
theorem CallsTo.of_callTo (hq : s.Undisturbed) (h : exec i s = .next (s.callTo addr)) : CallsTo i s addr := by
  obtain ⟨hstores, hstate⟩ := (stackOperations s hq).1 s.pc
  exact ⟨_, h, congrArg (fun u : State => { u with pc := addr }) hstate, hstores⟩

/-- An instruction that is one `callIf` (R156). -/
theorem calls_under_cond {p : Prop} [Decidable p] (hq : s.Undisturbed) (hk : k.holds s.flags = true ↔ p)
    (h : exec i s = .next (s.callIf k addr)) : if p then CallsTo i s addr else CompletesTo i s s :=
  completes_under_cond hk h (CallsTo.of_callTo hq)

/-- Settles O12: CALL is `callTo`, each of the others `callIf` under its condition. -/
theorem calls : Obligations.Calls := by
  unfold Obligations.Calls
  exact fun addr s hq => ⟨.of_callTo hq rfl,
    calls_under_cond hq (Cond.holds_iff .nz s.flags) rfl, calls_under_cond hq (Cond.holds_iff .z s.flags) rfl,
    calls_under_cond hq (Cond.holds_iff .nc s.flags) rfl, calls_under_cond hq (Cond.holds_iff .c s.flags) rfl,
    calls_under_cond hq (Cond.holds_iff .po s.flags) rfl, calls_under_cond hq (Cond.holds_iff .pe s.flags) rfl,
    calls_under_cond hq (Cond.holds_iff .p s.flags) rfl, calls_under_cond hq (Cond.holds_iff .m s.flags) rfl⟩

/-- An instruction that is one `popPc` (R55, R164). -/
theorem ReturnsFrom.of_popPc (hq : s.Undisturbed) (h : exec i s = .next s.popPc) : ReturnsFrom i s := by
  rw [State.popPc, State.pop16_eq hq] at h
  exact .of_mem h s.afterPopReads_mem

/-- An instruction that is one `returnIf` (R165). -/
theorem returns_under_cond {p : Prop} [Decidable p] (hq : s.Undisturbed) (hk : k.holds s.flags = true ↔ p)
    (h : exec i s = .next (s.returnIf k)) : if p then ReturnsFrom i s else CompletesTo i s s :=
  completes_under_cond hk h (ReturnsFrom.of_popPc hq)

/-- Settles O13: RET is `popPc`, each of the others `returnIf` under its condition. -/
theorem returns : Obligations.Returns := by
  unfold Obligations.Returns
  exact fun s hq => ⟨.of_popPc hq rfl,
    returns_under_cond hq (Cond.holds_iff .nz s.flags) rfl, returns_under_cond hq (Cond.holds_iff .z s.flags) rfl,
    returns_under_cond hq (Cond.holds_iff .nc s.flags) rfl, returns_under_cond hq (Cond.holds_iff .c s.flags) rfl,
    returns_under_cond hq (Cond.holds_iff .po s.flags) rfl, returns_under_cond hq (Cond.holds_iff .pe s.flags) rfl,
    returns_under_cond hq (Cond.holds_iff .p s.flags) rfl, returns_under_cond hq (Cond.holds_iff .m s.flags) rfl⟩

/-- Settles O14: RST n is `callTo`, whatever its number. -/
theorem restartInstruction : Obligations.RestartInstruction := by
  unfold Obligations.RestartInstruction
  exact fun _ _ _ hq => .of_callTo hq rfl

/-- The first byte of a pop, from RAM (R45, R55). -/
theorem State.stackLo_ram (h : s.kindAt s.sp = .ram) : s.stackLo = s.peek s.sp := by
  rw [State.stackLo, State.busByte, State.readByte_memory s s.sp (.inl h)]

/-- The second byte of a pop, from RAM: the first read has left it as it was (R45, R55). -/
theorem State.stackHi_ram (h : s.kindAt (s.sp + 1) = .ram) : s.stackHi = s.peek (s.sp + 1) := by
  have hkind : (s.afterRead s.sp).kindAt (s.sp + 1) = .ram := by rwa [State.kindAt, State.afterRead_memMap]
  rw [State.stackHi, State.busByte, State.readByte_memory _ _ (.inl hkind), State.peek, State.afterRead_mem, State.peek]

@[simp] theorem State.afterPopReads_flags (s : State) : s.afterPopReads.flags = s.flags := by simp [State.afterPopReads]
@[simp] theorem State.afterPopReads_ctl (s : State) : s.afterPopReads.ctl = s.ctl := by simp [State.afterPopReads]

/-- Settles O15: RET reads back, low-order byte first, the two bytes that CALL stored in RAM. -/
theorem callThenReturn : Obligations.CallThenReturn := by
  unfold Obligations.CallThenReturn
  intro addr s hq hhi hlo
  obtain ⟨t, hcall, ht, -, ⟨hstoredHi, -⟩, hstoredLo, -⟩ := (calls addr s hq).1
  have htq : t.Undisturbed := by
    rw [ht]
    exact hq
  obtain ⟨hret, -⟩ := (returns t htq).1
  have hkind (a : Word) : t.kindAt a = s.kindAt a := by rw [ht]; rfl
  have hsp : t.sp = s.sp - 2 := by rw [ht]
  have hsp1 : t.sp + 1 = s.sp - 1 := by bv_omega
  have hpopLo : t.stackLo = loByte s.pc := by
    rw [State.stackLo_ram (by rwa [hkind, hsp]), hsp, hstoredLo hlo]
  have hpopHi : t.stackHi = hiByte s.pc := by
    rw [State.stackHi_ram (by rwa [hkind, hsp1]), hsp1, hstoredHi hhi]
  refine ⟨t, _, hcall, hret, by rw [ht], ?_, ?_, t.afterPopReads_regs.trans (by rw [ht]),
    t.afterPopReads_flags.trans (by rw [ht]), t.afterPopReads_ctl.trans (by rw [ht])⟩
  · show joinBytes t.stackHi t.stackLo = s.pc
    rw [hpopHi, hpopLo, joinBytes_hiByte_loByte]
  · show t.sp + 2 = s.sp
    rw [hsp, BitVec.sub_add_cancel]

end Sys2Proof.Machine
end

-- Input and output.
section
/-! IN and OUT where the outside keeps still, and what a read of a port finds in `PORT_MAP` and leaves there
(spec 44_input_output.md R180, R181; 20_memory.md R47, R48). -/

namespace Sys2Proof.Machine

variable {d : Device} {ds : List Device} {m n : Nat}

/-- The ports or addresses at which a device answers. -/
theorem Device.holds_iff : d.holds n = true ↔ d.base ≤ n ∧ n < d.base + d.size := by
  rw [Device.holds, Bool.and_eq_true, decide_eq_true_eq, decide_eq_true_eq]

/-- The first device there answers and uses up a byte of its own. -/
theorem takeAnswer_of_holds (h : d.holds n = true) (ds : List Device) :
    takeAnswer (d :: ds) n = (d.coming.headD d.after, { d with coming := d.coming.tail } :: ds) := by
  rw [takeAnswer, if_pos h]

/-- A device that is elsewhere is passed over and stays as it was. -/
theorem takeAnswer_of_not_holds (h : ¬d.holds n = true) (ds : List Device) :
    takeAnswer (d :: ds) n = ((takeAnswer ds n).1, d :: (takeAnswer ds n).2) := by
  rw [takeAnswer, if_neg h]

/-- A read at `n` leaves the answer at `m` as it was if no device is at both: the one device that changed is not at `m`. -/
theorem takeAnswer_other (h : ∀ d ∈ ds, ¬(d.holds n = true ∧ d.holds m = true)) :
    (takeAnswer (takeAnswer ds n).2 m).1 = (takeAnswer ds m).1 := by
  induction ds with
  | nil => rfl
  | cons d ds ih =>
    obtain ⟨hd, hds⟩ := List.forall_mem_cons.mp h
    by_cases hn : d.holds n = true
    · have hm : ¬d.holds m = true := fun hm => hd ⟨hn, hm⟩
      have hm' : ¬Device.holds { d with coming := d.coming.tail } m = true := hm
      rw [takeAnswer_of_holds hn, takeAnswer_of_not_holds hm, takeAnswer_of_not_holds hm']
    · rw [takeAnswer_of_not_holds hn]
      by_cases hm : d.holds m = true
      · rw [takeAnswer_of_holds hm, takeAnswer_of_holds hm]
      · rw [takeAnswer_of_not_holds hm, takeAnswer_of_not_holds hm]
        exact ih hds

/-- What a read of a port leaves of the input ports, whether anything drove the bus or not (R47). -/
theorem State.readPort_ports (s : State) (port : Byte) :
    (s.readPort port).2.platform.ports = (takeAnswer s.platform.ports port.toNat).2 := by
  rw [State.readPort, State.dataBus_platform]

/-- IN is one I/O READ into A (R180). -/
theorem completesTo_inPort {s : State} (hq : s.Undisturbed) (port : Byte) :
    CompletesTo (.inPort port) s { (s.readPort port).2 with
      regs := { s.regs with a := (s.readPort port).1 }
      bus := .ioRead port (s.readPort port).1 :: s.bus } := by
  have hexec : exec (.inPort port) s = .next ((s.ioRead port).2.setA (s.ioRead port).1) := rfl
  rw [State.ioRead_quiet hq, State.setA, State.readPort_regs] at hexec
  exact .of_mem hexec (s.readPort_mem port)

/-- OUT is one I/O WRITE of A (R181). -/
theorem completesTo_outPort {s : State} (hq : s.Undisturbed) (port : Byte) :
    CompletesTo (.outPort port) s { s with bus := .ioWrite port s.regs.a :: s.bus } := by
  have hexec : exec (.outPort port) s = .next (s.ioWrite port s.regs.a) := rfl
  rw [State.ioWrite_quiet hq] at hexec
  exact .of_mem hexec rfl

/-- Settles O16: one I/O cycle each; the byte read is what the first device there drives, or one draw; and the one device a
read changes is not at the other port. -/
theorem inputOutput : Obligations.InputOutput := by
  unfold Obligations.InputOutput
  refine ⟨fun port s hq => ⟨completesTo_inPort hq port, completesTo_outPort hq port⟩, fun s port => ⟨fun v hv => ?_, fun hv => ?_⟩,
    fun _ => rfl, fun d ds n hlo hhi => takeAnswer_of_holds (Device.holds_iff.mpr ⟨hlo, hhi⟩) ds,
    fun d ds n hout => takeAnswer_of_not_holds (mt Device.holds_iff.mp (by omega)) ds, fun s port other h => ?_⟩
  · rw [State.readPort, hv, State.dataBus_driven]
  · rw [State.readPort, hv, State.dataBus_state]
    rfl
  · rw [State.readPort_ports]
    exact takeAnswer_other h

end Sys2Proof.Machine
end

-- Increment and decrement.
section
/-! INR, DCR, INX and DCX (spec 45_increment_decrement.md R185 to R194): one `add8` or `sub8` with 1, whose result goes back to
the register or the byte at HL and whose flags but CY are kept, or one pair written. -/

namespace Sys2Proof.Machine

variable {i : Instr} {s t : State} {o : Sum}

/-- The adder counts up (R18, R185). -/
theorem add8_one_r (a : Byte) : (add8 a 1 false).r = a + 1 := by
  simp only [add8]
  bv_omega

/-- The subtracter counts down (R19, R186). -/
theorem sub8_one_r (a : Byte) : (sub8 a 1 false).r = a - 1 := by
  have hr := sub8_r_toNat a 1 false
  simp only [Bool.toNat_false] at hr
  bv_omega

/-- The flags of a count are those of the sum, but for CY (R185, R186). -/
theorem Flags.ofSumKeepingCy_eq (f : Flags) (o : Sum) : f.ofSumKeepingCy o = { f.ofSum o with cy := f.cy } := rfl

/-- An instruction that counts a register: the result to the register, the flags but CY, and nothing else. -/
theorem completesTo_setCountFlags {r : Reg} (h : exec i s = .next ((s.setReg r o.r).setCountFlags o)) :
    ∃ t, CompletesTo i s t ∧ t = { s with regs := t.regs, flags := t.flags } ∧ t.regs.get r = o.r
      ∧ (∀ r', r' ≠ r → t.regs.get r' = s.regs.get r') ∧ t.flags = { s.flags.ofSum o with cy := s.flags.cy } := by
  obtain ⟨t, hcompletes, ht, hsame, hother⟩ := completesTo_setReg (u := s.setCountFlags o) h rfl rfl
  have hflags : t.flags = s.flags.ofSumKeepingCy o := by rw [ht]; rfl
  refine ⟨t, hcompletes, ?_, hsame, hother, by rw [hflags, Flags.ofSumKeepingCy_eq]⟩
  rw [hflags]
  exact ht

/-- Settles O17: INR is `add8` with 1, DCR is `sub8` with 1, each with its carry discarded. -/
theorem countRegister : Obligations.CountRegister := by
  unfold Obligations.CountRegister
  intro dst s
  constructor
  · obtain ⟨t, hcompletes, ht, hsame, hother, hflags⟩ :=
      completesTo_setCountFlags (o := add8 (s.regs.get dst) 1 false) (rfl : exec (.inrR dst) s = _)
    exact ⟨t, _, hcompletes, ht, hsame.trans (add8_one_r _), hother, hsame ▸ IsSum.add8 s.flags _ _ _, hflags⟩
  · obtain ⟨t, hcompletes, ht, hsame, hother, hflags⟩ :=
      completesTo_setCountFlags (o := sub8 (s.regs.get dst) 1 false) (rfl : exec (.dcrR dst) s = _)
    exact ⟨t, _, hcompletes, ht, hsame.trans (sub8_one_r _), hother, hsame ▸ IsDifference.sub8 s.flags _ _ _, hflags⟩

/-- One byte stored, in terms of memory alone (R46). -/
theorem StoresByte.of_mem {a : Word} {v : Byte} (h : t.mem = (s.poke a v).mem) : StoresByte s t a v := by
  have hpeek (x : Word) : t.peek x = (s.poke a v).peek x := by rw [State.peek, State.peek, h]
  simpa only [StoresByte, Arrived, hpeek] using StoresByte.poke s a v

/-- A read leaves a later write to do what it would have done before the read (R45, R46). -/
theorem State.poke_afterRead_mem (s : State) (a b : Word) (v : Byte) : ((s.afterRead a).poke b v).mem = (s.poke b v).mem := by
  simp [State.poke]

/-- An instruction that reads the byte at HL, sends a result back there and sets the flags but CY (R187, R188). -/
theorem storesByte_setCountFlags (hq : s.Undisturbed)
    (h : exec i s = .next (((s.memRead s.hl).2.memWrite s.hl o.r).setCountFlags o)) :
    ∃ t, exec i s = .next t
      ∧ t = { s.afterRead s.hl with
          mem := t.mem
          flags := { s.flags.ofSum o with cy := s.flags.cy }
          bus := .memWrite s.hl o.r :: (s.afterRead s.hl).bus }
      ∧ StoresByte s t s.hl o.r := by
  rw [State.memRead_eq hq, State.memWrite_quiet (hq.afterRead _)] at h
  refine ⟨_, h, ?_, .of_mem (s.poke_afterRead_mem ..)⟩
  rw [State.setCountFlags, Flags.ofSumKeepingCy_eq, State.poke_flags, State.afterRead_flags]
  rfl

/-- Settles O18: as INR r and DCR r, with the byte that the read finds; the flags do not ask what the write did. -/
theorem countMemory : Obligations.CountMemory := by
  unfold Obligations.CountMemory
  intro s hq
  have hread : (s.memRead s.hl).1 = s.busByte s.hl := by rw [State.memRead_eq hq]
  constructor
  · obtain ⟨t, hexec, ht, hstores⟩ :=
      storesByte_setCountFlags (o := add8 (s.memRead s.hl).1 1 false) hq (rfl : exec .inrM s = _)
    exact ⟨t, _, _, hexec, hread ▸ IsSum.add8 s.flags _ _ _, ht, hstores⟩
  · obtain ⟨t, hexec, ht, hstores⟩ :=
      storesByte_setCountFlags (o := sub8 (s.memRead s.hl).1 1 false) hq (rfl : exec .dcrM s = _)
    exact ⟨t, _, _, hexec, hread ▸ IsDifference.sub8 s.flags _ _ _, ht, hstores⟩

/-- Settles O10: each writes one pair, and a pair that was written reads back. -/
theorem pairCounts : Obligations.PairCounts := by
  unfold Obligations.PairCounts
  exact fun s =>
    ⟨⟨_, .of_mem rfl rfl, rfl, s.getPair_setPair .bc _⟩, ⟨_, .of_mem rfl rfl, rfl, s.getPair_setPair .de _⟩,
      ⟨_, .of_mem rfl rfl, rfl, s.getPair_setPair .hl _⟩, .of_mem rfl rfl,
      ⟨_, .of_mem rfl rfl, rfl, s.getPair_setPair .bc _⟩, ⟨_, .of_mem rfl rfl, rfl, s.getPair_setPair .de _⟩,
      ⟨_, .of_mem rfl rfl, rfl, s.getPair_setPair .hl _⟩, .of_mem rfl rfl⟩

end Sys2Proof.Machine
end

-- Add and subtract.
section
/-! ADD, ADC, SUB and SBB with a register, an immediate byte or the byte at HL (spec 46_add_subtract.md R200 to R205, R210 to
R215): one `add8` or `sub8`, whose result goes to A and whose flags are all kept; and DAD (R206 to R209), one sum of words. -/

namespace Sys2Proof.Machine

variable {i : Instr} {s u : State} {b : Byte} {cin : Bool} {v : Word}

/-- Instruction `i` completes, from `s`, in the state `u` but for A and the flags, which are as `R` says; the registers other
than A are those of `s`. -/
def LeavesInA (R : Byte → Flags → Prop) (i : Instr) (s u : State) : Prop :=
  ∃ t, CompletesTo i s t ∧ t = { u with regs := { s.regs with a := t.regs.a }, flags := t.flags } ∧ R t.regs.a t.flags

/-- An instruction that ends with a sum or a difference in A and the flags, nothing of registers and memory having changed
before. -/
theorem LeavesInA.of_setSum {R : Byte → Flags → Prop} {o : Sum} (h : exec i s = .next (u.setSum o)) (hr : u.regs = s.regs)
    (hm : u.mem = s.mem) (hR : R o.r (u.flags.ofSum o)) : LeavesInA R i s u :=
  ⟨_, .of_mem h hm, by rw [State.setSum, hr], hR⟩

/-- An instruction that is one `addToA` (R18, R200, R201). -/
theorem LeavesInA.of_addToA (h : exec i s = .next (u.addToA b cin)) (hr : u.regs = s.regs) (hm : u.mem = s.mem) :
    LeavesInA (IsSum s.regs.a b cin) i s u :=
  .of_setSum h hr hm (hr ▸ IsSum.add8 ..)

/-- An instruction that is one `subFromA` (R19, R210, R211). -/
theorem LeavesInA.of_subFromA (h : exec i s = .next (u.subFromA b cin)) (hr : u.regs = s.regs) (hm : u.mem = s.mem) :
    LeavesInA (IsDifference s.regs.a b cin) i s u :=
  .of_setSum h hr hm (hr ▸ IsDifference.sub8 ..)

/-- One MEMORY READ at HL, then `addToA` of the byte it found (R202, R203). -/
theorem LeavesInA.of_memRead_addToA (hq : s.Undisturbed)
    (h : exec i s = .next ((s.memRead s.hl).2.addToA (s.memRead s.hl).1 cin)) :
    LeavesInA (IsSum s.regs.a (s.busByte s.hl) cin) i s (s.afterRead s.hl) := by
  rw [State.memRead_eq hq] at h
  exact .of_addToA h (s.afterRead_regs _) (s.afterRead_mem _)

/-- One MEMORY READ at HL, then `subFromA` of the byte it found (R212, R213). -/
theorem LeavesInA.of_memRead_subFromA (hq : s.Undisturbed)
    (h : exec i s = .next ((s.memRead s.hl).2.subFromA (s.memRead s.hl).1 cin)) :
    LeavesInA (IsDifference s.regs.a (s.busByte s.hl) cin) i s (s.afterRead s.hl) := by
  rw [State.memRead_eq hq] at h
  exact .of_subFromA h (s.afterRead_regs _) (s.afterRead_mem _)

/-- Settles O21: each of the four is one `addToA`, ADC and ACI with CY as it was before. -/
theorem addRegisterImmediate : Obligations.AddRegisterImmediate := by
  unfold Obligations.AddRegisterImmediate
  exact fun s => ⟨fun _ => LeavesInA.of_addToA (u := s) rfl rfl rfl, fun _ => LeavesInA.of_addToA (u := s) rfl rfl rfl,
    fun _ => LeavesInA.of_addToA (u := s) rfl rfl rfl, fun _ => LeavesInA.of_addToA (u := s) rfl rfl rfl⟩

/-- Settles O22: each of the four is one `subFromA`, SBB and SBI with CY as it was before. -/
theorem subRegisterImmediate : Obligations.SubRegisterImmediate := by
  unfold Obligations.SubRegisterImmediate
  exact fun s => ⟨fun _ => LeavesInA.of_subFromA (u := s) rfl rfl rfl, fun _ => LeavesInA.of_subFromA (u := s) rfl rfl rfl,
    fun _ => LeavesInA.of_subFromA (u := s) rfl rfl rfl, fun _ => LeavesInA.of_subFromA (u := s) rfl rfl rfl⟩

/-- Settles O23: each of the four is one MEMORY READ at HL and then the register form with the byte found. -/
theorem addSubMemory : Obligations.AddSubMemory := by
  unfold Obligations.AddSubMemory
  exact fun s hq => ⟨LeavesInA.of_memRead_addToA hq rfl, LeavesInA.of_memRead_addToA hq rfl,
    LeavesInA.of_memRead_subFromA hq rfl, LeavesInA.of_memRead_subFromA hq rfl⟩

/-- A sum of two words, with the carry out of bit 15 as its bit 16, is exact (R206). -/
theorem word_add_withCarry (v w : Word) :
    (v + w).toNat + 65536 * (decide (v.toNat + w.toNat > 65535)).toNat = v.toNat + w.toNat := by
  have hv := v.isLt
  have hw := w.isLt
  rw [BitVec.toNat_add]
  by_cases hcarry : v.toNat + w.toNat > 65535
  · simp only [hcarry, decide_true, Bool.toNat_true]
    omega
  · simp only [hcarry, decide_false, Bool.toNat_false]
    omega

/-- An instruction that is one `dad` (R206 to R209). -/
theorem completesTo_dad (hq : s.Undisturbed) (h : exec i s = .next (s.dad v)) :
    ∃ t, CompletesTo i s t
      ∧ t = { s with
          regs := { s.regs with h := t.regs.h, l := t.regs.l }
          flags := { s.flags with cy := t.flags.cy }
          bus := .idleDad :: .idleDad :: s.bus }
      ∧ (joinBytes t.regs.h t.regs.l).toNat + 65536 * t.flags.cy.toNat = s.hl.toNat + v.toNat := by
  rw [State.dad_quiet hq] at h
  refine ⟨_, .of_mem h rfl, rfl, ?_⟩
  rw [joinBytes_hiByte_loByte]
  exact word_add_withCarry s.hl v

/-- Settles O25: each of the four is one `dad` of its pair. -/
theorem doubleAdd : Obligations.DoubleAdd := by
  unfold Obligations.DoubleAdd
  simp only [List.forall_mem_cons]
  exact fun s hq => ⟨completesTo_dad hq rfl, completesTo_dad hq rfl, completesTo_dad hq rfl, completesTo_dad hq rfl, nofun⟩

end Sys2Proof.Machine
end

-- Logical operations, comparisons and rotates.
section
/-! CMP, CPI, ANA, XRA, ORA and their memory and immediate forms, and the four rotates (spec 47_logical_rotate.md R225 to R240):
one `compareA`, one `logicA` or one `rotateA`, after a MEMORY READ at HL in the memory forms. -/

namespace Sys2Proof.Machine

variable {i : Instr} {s u : State} {a b r : Byte} {f : Flags} {ac bitIn bitOut : Bool} {v : Byte} {x : BitVec 1}

/-- CY of a difference without borrow in says which operand is less (R19, R228). -/
theorem IsDifference.cy_iff (h : IsDifference a b false r f) : f.cy = true ↔ a.toNat < b.toNat := by
  obtain ⟨hr, -, -⟩ := h
  have ha := a.isLt
  have hlt := r.isLt
  have hcy := f.cy.toNat_le
  rw [← Bool.toNat_eq_one]
  rw [Bool.toNat_false] at hr
  omega

/-- Z of a difference without borrow in says whether the operands are equal (R17, R228). -/
theorem IsDifference.z_iff (h : IsDifference a b false r f) : f.z = true ↔ a = b := by
  obtain ⟨hr, -, -, hz, -⟩ := h
  have ha := a.isLt
  have hb := b.isLt
  have hcy := f.cy.toNat_le
  have hzero : r = 0 ↔ r.toNat = 0 := BitVec.toNat_inj.symm
  rw [hz, decide_eq_true_iff, hzero, ← BitVec.toNat_inj]
  rw [Bool.toNat_false] at hr
  omega

/-- Instruction `i` completes, from `s`, in the state `u` but for the flags, which are those of A minus `b`. -/
def Compared (b : Byte) (i : Instr) (s u : State) : Prop :=
  ∃ t r, CompletesTo i s t ∧ t = { u with flags := t.flags } ∧ IsDifference s.regs.a b false r t.flags
    ∧ (t.flags.z = true ↔ s.regs.a = b) ∧ (t.flags.cy = true ↔ s.regs.a.toNat < b.toNat)

/-- An instruction that is one `compareA`, nothing of registers and memory having changed before (R228, R236). -/
theorem Compared.of_compareA (h : exec i s = .next (u.compareA b)) (hr : u.regs = s.regs) (hm : u.mem = s.mem) :
    Compared b i s u := by
  have hdiff : IsDifference s.regs.a b false (sub8 s.regs.a b false).r (u.compareA b).flags := by
    rw [State.compareA_flags, hr]
    exact .sub8 ..
  exact ⟨_, _, .of_mem h hm, rfl, hdiff, hdiff.z_iff, hdiff.cy_iff⟩

/-- One MEMORY READ at HL, then `compareA` with the byte it found (R232). -/
theorem Compared.of_memRead_compareA (hq : s.Undisturbed)
    (h : exec i s = .next ((s.memRead s.hl).2.compareA (s.memRead s.hl).1)) :
    Compared (s.busByte s.hl) i s (s.afterRead s.hl) := by
  rw [State.memRead_eq hq] at h
  exact .of_compareA h (s.afterRead_regs _) (s.afterRead_mem _)

/-- Settles O24: each comparison is one `compareA`, whose flags are those of a difference. -/
theorem compares : Obligations.Compares := by
  unfold Obligations.Compares
  exact ⟨fun _ s => Compared.of_compareA (u := s) rfl rfl rfl, fun _ s => Compared.of_compareA (u := s) rfl rfl rfl,
    fun _ hq => Compared.of_memRead_compareA hq rfl⟩

/-- Instruction `i` completes, from `s`, in the state `u` but for A, which is `v`, and the flags, which are those of a logical
result; the registers other than A are those of `s`. -/
def LeavesLogic (v : Byte) (ac : Bool) (i : Instr) (s u : State) : Prop :=
  ∃ t, CompletesTo i s t ∧ t = { u with regs := { s.regs with a := v }, flags := t.flags } ∧ IsLogic v ac t.flags

/-- An instruction that is one `logicA`, nothing of registers and memory having changed before (R225 to R227, R233 to R235). -/
theorem LeavesLogic.of_logicA (h : exec i s = .next (u.logicA v ac)) (hr : u.regs = s.regs) (hm : u.mem = s.mem) :
    LeavesLogic v ac i s u :=
  ⟨_, .of_mem h hm, by rw [State.logicA, hr], .ofLogic ..⟩

/-- One MEMORY READ at HL, then `logicA` of what `op` makes of the byte it found (R229 to R231). -/
theorem LeavesLogic.of_memRead_logicA (op : Byte → Byte) (hq : s.Undisturbed)
    (h : exec i s = .next ((s.memRead s.hl).2.logicA (op (s.memRead s.hl).1) ac)) :
    LeavesLogic (op (s.busByte s.hl)) ac i s (s.afterRead s.hl) := by
  rw [State.memRead_eq hq] at h
  exact .of_logicA h (s.afterRead_regs _) (s.afterRead_mem _)

/-- Settles O26: each of the nine is one `logicA`, of the operand and A. -/
theorem logicalOperations : Obligations.LogicalOperations := by
  unfold Obligations.LogicalOperations
  simp only [List.mem_cons, Prod.mk.injEq, List.not_mem_nil, or_false]
  refine ⟨?register, ?immediate, ?memory⟩
  case register | immediate =>
    rintro s operand i v ac (⟨rfl, rfl, rfl⟩ | ⟨rfl, rfl, rfl⟩ | ⟨rfl, rfl, rfl⟩) <;>
      exact LeavesLogic.of_logicA (u := s) rfl rfl rfl
  case memory =>
    rintro s i v ac hq (⟨rfl, rfl, rfl⟩ | ⟨rfl, rfl, rfl⟩ | ⟨rfl, rfl, rfl⟩)
    · exact LeavesLogic.of_memRead_logicA (s.regs.a &&& ·) hq rfl
    · exact LeavesLogic.of_memRead_logicA (s.regs.a ^^^ ·) hq rfl
    · exact LeavesLogic.of_memRead_logicA (s.regs.a ||| ·) hq rfl

/-- One place to the left: bits 6 to 0 move up, and `x` enters at bit 0 (R237, R239). -/
theorem getLsbD_shiftedLeft (a : Byte) (x : BitVec 1) :
    (∀ k, k < 7 → (a.extractLsb' 0 7 ++ x).getLsbD (k + 1) = a.getLsbD k)
      ∧ (a.extractLsb' 0 7 ++ x).getLsbD 0 = x.getLsbD 0 := by
  simp only [BitVec.getLsbD_append]
  exact ⟨fun k hk => by simp [hk], by simp⟩

/-- One place to the right: bits 7 to 1 move down, and `x` enters at bit 7 (R238, R240). -/
theorem getLsbD_shiftedRight (a : Byte) (x : BitVec 1) :
    (∀ k, k < 7 → (x ++ a.extractLsb' 1 7).getLsbD k = a.getLsbD (k + 1))
      ∧ (x ++ a.extractLsb' 1 7).getLsbD 7 = x.getLsbD 0 := by
  simp only [BitVec.getLsbD_append]
  exact ⟨fun k hk => by simp [hk, Nat.add_comm], by simp⟩

/-- An instruction that rotates A to the left (R237, R239). -/
theorem completesTo_rotateLeft (h : exec i s = .next (s.rotateA (s.regs.a.extractLsb' 0 7 ++ x) bitOut))
    (hx : x.getLsbD 0 = bitIn) :
    ∃ t, CompletesTo i s t
      ∧ t = { s with regs := { s.regs with a := t.regs.a }, flags := { s.flags with cy := bitOut } }
      ∧ (∀ k, k < 7 → t.regs.a.getLsbD (k + 1) = s.regs.a.getLsbD k) ∧ t.regs.a.getLsbD 0 = bitIn := by
  obtain ⟨hmoved, henters⟩ := getLsbD_shiftedLeft s.regs.a x
  exact ⟨_, .of_mem h rfl, rfl, hmoved, henters.trans hx⟩

/-- An instruction that rotates A to the right (R238, R240). -/
theorem completesTo_rotateRight (h : exec i s = .next (s.rotateA (x ++ s.regs.a.extractLsb' 1 7) bitOut))
    (hx : x.getLsbD 0 = bitIn) :
    ∃ t, CompletesTo i s t
      ∧ t = { s with regs := { s.regs with a := t.regs.a }, flags := { s.flags with cy := bitOut } }
      ∧ (∀ k, k < 7 → t.regs.a.getLsbD k = s.regs.a.getLsbD (k + 1)) ∧ t.regs.a.getLsbD 7 = bitIn := by
  obtain ⟨hmoved, henters⟩ := getLsbD_shiftedRight s.regs.a x
  exact ⟨_, .of_mem h rfl, rfl, hmoved, henters.trans hx⟩

/-- Settles O27: two rotates to the left and two to the right, which differ in the bit that enters. -/
theorem rotates : Obligations.Rotates := by
  unfold Obligations.Rotates
  intro s
  have hbit (k : Nat) : (s.regs.a.extractLsb' k 1).getLsbD 0 = s.regs.a.getLsbD k := by simp
  have hcy : (BitVec.ofBool s.flags.cy).getLsbD 0 = s.flags.cy := by simp
  exact ⟨completesTo_rotateLeft rfl (hbit 7), completesTo_rotateRight rfl (hbit 0), completesTo_rotateLeft rfl hcy,
    completesTo_rotateRight rfl hcy⟩

end Sys2Proof.Machine
end

-- Specials and control.
section
/-! CMA, STC, CMC, DAA, EI, DI, NOP and HLT (spec 48_specials_control.md R250 to R257): no machine cycle runs. -/

namespace Sys2Proof.Machine

/-- Settles O28: each writes A, one flag or one control bit, or nothing. -/
theorem smallControl : Obligations.SmallControl := by
  unfold Obligations.SmallControl
  exact fun s => ⟨.of_mem rfl rfl, .of_mem rfl rfl, .of_mem rfl rfl, .of_mem rfl rfl, .of_mem rfl rfl⟩

/-- The low digit of A is out of range, or a carry left it: the test that asks for 06H (R253). -/
abbrev DaaLow (a : Byte) (f : Flags) : Prop := a.toNat % 16 > 9 ∨ f.ac = true

/-- The high digit of A is out of range, a carry left it, or the low correction will carry it out of range: the test that asks
for 60H (R253). -/
abbrev DaaHigh (a : Byte) (f : Flags) : Prop :=
  a.toNat / 16 > 9 ∨ f.cy = true ∨ (a.toNat / 16 ≥ 9 ∧ a.toNat % 16 > 9)

/-- What DAA adds, as a number (R253). -/
def daaAddend (a : Byte) (f : Flags) : Nat := (if DaaLow a f then 6 else 0) + (if DaaHigh a f then 96 else 0)

/-- The correction of DAA by its two tests; a set CY asks for the high correction, so that the carry left is the high test. -/
theorem daaCorrection_eq (a : Byte) (f : Flags) :
    daaCorrection a f = (BitVec.ofNat 8 (daaAddend a f), decide (DaaHigh a f)) := by
  have hhigh : (decide (a.toNat / 16 > 9) || f.cy || (decide (a.toNat / 16 ≥ 9) && decide (a.toNat % 16 > 9)))
      = decide (DaaHigh a f) := by
    simp [DaaHigh, Bool.or_assoc]
  have hcy : (decide (DaaHigh a f) || f.cy) = decide (DaaHigh a f) := by
    by_cases hf : f.cy = true <;> simp [DaaHigh, hf]
  have hlow : (decide (a.toNat % 16 > 9) || f.ac) = decide (DaaLow a f) := by simp [DaaLow]
  simp only [daaCorrection, hhigh, hlow, hcy, daaAddend, decide_eq_true_eq]
  split <;> split <;> rfl

/-- What DAA does: the sum of A and the correction, with the carry of the high test in place of the sum's (R253). -/
theorem exec_daa (s : State) :
    exec .daa s = .next (s.setSum { add8 s.regs.a (BitVec.ofNat 8 (daaAddend s.regs.a s.flags)) false with
      cy := decide (DaaHigh s.regs.a s.flags) }) := by
  show execDaa s = _
  simp only [execDaa, daaCorrection_eq]

/-- Settles O29: DAA is one `setSum`; `f` holds the flags of the correcting addition, of which CY alone is replaced. -/
theorem decimalAdjust : Obligations.DecimalAdjust := by
  unfold Obligations.DecimalAdjust
  intro s
  refine ⟨_, s.flags.ofSum (add8 s.regs.a (BitVec.ofNat 8 (daaAddend s.regs.a s.flags)) false),
    .of_mem (exec_daa s) rfl, rfl, ?_, rfl⟩
  rintro corr rfl
  exact IsSum.add8 ..

/-- The number of a packed decimal byte. -/
theorem toNat_bcd {n : Nat} (h : n < 100) : (bcd n).toNat = 16 * (n / 10) + n % 10 := by
  rw [bcd, BitVec.toNat_ofNat]
  omega

/-- DAA after the sum of two packed decimal bytes corrects each digit exactly when its decimal sum is over 9, and so leaves the
decimal sum and its carry (R253). -/
theorem daa_after_add {x y : Nat} (hx : x < 100) (hy : y < 100) (c : Bool) (f : Flags) :
    let o := add8 (bcd x) (bcd y) c
    (add8 o.r (BitVec.ofNat 8 (daaAddend o.r (f.ofSum o))) false).r = bcd ((x + y + c.toNat) % 100)
      ∧ (DaaHigh o.r (f.ofSum o) ↔ 100 ≤ x + y + c.toNat) := by
  intro o
  have hc := c.toNat_le
  obtain ⟨hr, hac, -⟩ : IsSum (bcd x) (bcd y) c o.r (f.ofSum o) := IsSum.add8 ..
  have hac : (f.ofSum o).ac = true ↔ 15 < x % 10 + y % 10 + c.toNat := by
    rw [hac, decide_eq_true_iff, toNat_bcd hx, toNat_bcd hy]
    omega
  rw [toNat_bcd hx, toNat_bcd hy] at hr
  have hhigh : DaaHigh o.r (f.ofSum o) ↔ 100 ≤ x + y + c.toNat := by
    rw [DaaHigh]
    cases hcy : (f.ofSum o).cy <;> simp [hcy] at hr ⊢ <;> omega
  have hlow : DaaLow o.r (f.ofSum o) ↔ 9 < x % 10 + y % 10 + c.toNat := by
    rw [DaaLow, hac]
    omega
  have hresult : (o.r.toNat + daaAddend o.r (f.ofSum o)) % 256 = (bcd ((x + y + c.toNat) % 100)).toNat := by
    rw [toNat_bcd (Nat.mod_lt _ (by decide))]
    simp only [daaAddend, hlow, hhigh]
    split <;> split <;> omega
  refine ⟨BitVec.eq_of_toNat_eq ?_, hhigh⟩
  simpa only [add8, BitVec.toNat_ofNat, Nat.add_mod_mod, Bool.toNat_false, Nat.add_zero] using hresult

/-- An addition to a packed decimal A, then DAA. -/
theorem daa_after_addToA {i : Instr} {s : State} {b : Byte} {c : Bool} {x y : Nat} (h : exec i s = .next (s.addToA b c))
    (hx : x < 100) (hy : y < 100) (ha : s.regs.a = bcd x) (hb : b = bcd y) :
    ∃ t u, exec i s = .next t ∧ exec .daa t = .next u
      ∧ u.regs.a = bcd ((x + y + c.toNat) % 100) ∧ u.flags.cy = decide (100 ≤ x + y + c.toNat) := by
  subst hb
  obtain ⟨hsum, hcarry⟩ := daa_after_add hx hy c s.flags
  refine ⟨_, _, h, exec_daa _, ?_, ?_⟩
  · simpa [ha] using hsum
  · simp only [State.setSum_flags, State.addToA_flags, State.addToA_regs, ha]
    exact decide_eq_decide.mpr hcarry

/-- Settles O30: ADD r is `addToA` without a carry in, ADC r with CY. -/
theorem decimalAddition : Obligations.DecimalAddition := by
  unfold Obligations.DecimalAddition
  simp only [List.forall_mem_cons]
  exact fun s src x y hx hy ha hb =>
    ⟨daa_after_addToA (c := false) rfl hx hy ha hb, daa_after_addToA (c := s.flags.cy) rfl hx hy ha hb, nofun⟩

/-- All that EI, DI and a further interrupt do to the saved enable status: one that is valid becomes the free bit `tie`, one
draw; one that is not stays (R316; log 4). -/
theorem State.disturbTie_spec (s : State) :
    ∃ tie, (s.ctl.tieV = false → tie = s.ctl.tie)
      ∧ s.disturbTie = { s with ctl := { s.ctl with tie := tie }, draws := s.draws + s.ctl.tieV.toNat } := by
  cases hv : s.ctl.tieV
  · exact ⟨s.ctl.tie, fun _ => rfl, State.disturbTie_of_not_valid hv⟩
  · exact ⟨s.draw1.1, nofun, by rw [State.disturbTie, if_pos hv]; rfl⟩

/-- Settles O31: besides IE and EIINH both do what `disturbTie` does. -/
theorem enableDisable : Obligations.EnableDisable := by
  unfold Obligations.EnableDisable
  intro s
  obtain ⟨tie, htie, hdisturb⟩ := s.disturbTie_spec
  have hei : exec .ei s = .next { s with
      ctl := { s.ctl with ie := true, eiInh := true, tie := tie }, draws := s.draws + s.ctl.tieV.toNat } := by
    show execEi s = _
    rw [execEi, hdisturb]
  have hdi : exec .di s = .next { s with
      ctl := { s.ctl with ie := false, tie := tie }, draws := s.draws + s.ctl.tieV.toNat } := by
    show execDi s = _
    rw [execDi, hdisturb]
  exact ⟨⟨_, .of_mem hei rfl, rfl, htie⟩, ⟨_, .of_mem hdi rfl, rfl, htie⟩⟩

end Sys2Proof.Machine
end

-- RIM and SIM.
section
/-! RIM and SIM (spec 49_rim_sim.md R265 to R267): what RIM packs into A, and the parts of SIM. -/

namespace Sys2Proof.Machine

/-- The bits of a packed byte at which the flag byte has no flag. -/
theorem packByte_bits531 (b7 b6 b5 b4 b3 b2 b1 b0 : Bool) :
    (packByte b7 b6 b5 b4 b3 b2 b1 b0).getLsbD 5 = b5 ∧ (packByte b7 b6 b5 b4 b3 b2 b1 b0).getLsbD 3 = b3
      ∧ (packByte b7 b6 b5 b4 b3 b2 b1 b0).getLsbD 1 = b1 := by
  revert b7 b6 b5 b4 b3 b2 b1 b0
  decide

/-- What RIM does: A takes the packed levels and control bits, TIEV is cleared, and each pin that nothing drives takes one draw
(R265, D14). -/
theorem exec_rim (s : State) :
    ∃ sid r65 r55 : Bool,
      (∀ v, s.pins.sid = some v → sid = v) ∧ (∀ v, s.pins.rst65 = some v → r65 = v)
      ∧ (∀ v, s.pins.rst55 = some v → r55 = v)
      ∧ exec .rim s = .next { s with
          regs := { s.regs with
            a := packByte sid s.ctl.r75 r65 r55 (if s.ctl.tieV then s.ctl.tie else s.ctl.ie) s.ctl.m75 s.ctl.m65 s.ctl.m55 }
          ctl := { s.ctl with tieV := false }
          draws := s.draws + s.pins.sid.isNone.toNat + s.pins.rst65.isNone.toNat + s.pins.rst55.isNone.toNat } := by
  have driven (u : State) (l : Option Bool) (v : Bool) (h : l = some v) : (u.inputLevel l).1 = v := by
    rw [h, State.inputLevel_driven]
  refine ⟨_, _, _, driven s s.pins.sid, driven (s.inputLevel s.pins.sid).2 s.pins.rst65,
    driven ((s.inputLevel s.pins.sid).2.inputLevel s.pins.rst65).2 s.pins.rst55, ?_⟩
  show execRim s = _
  simp only [execRim, State.setA, State.inputLevel_state]

/-- Settles O32: each bit of A is one argument of `packByte`. -/
theorem readInterruptMask : Obligations.ReadInterruptMask := by
  unfold Obligations.ReadInterruptMask
  intro s
  obtain ⟨sid, r65, r55, hsid, h65, h55, hexec⟩ := exec_rim s
  obtain ⟨hb7, hb6, hb4, hb2, hb0⟩ := flagByte_bits sid s.ctl.r75 r65 r55 (if s.ctl.tieV then s.ctl.tie else s.ctl.ie)
    s.ctl.m75 s.ctl.m65 s.ctl.m55
  obtain ⟨hb5, hb3, hb1⟩ := packByte_bits531 sid s.ctl.r75 r65 r55 (if s.ctl.tieV then s.ctl.tie else s.ctl.ie)
    s.ctl.m75 s.ctl.m65 s.ctl.m55
  exact ⟨_, .of_mem hexec rfl, rfl, fun v hv => hb7.trans (hsid v hv), hb6, fun v hv => hb5.trans (h65 v hv),
    fun v hv => hb4.trans (h55 v hv), hb3, hb2, hb1, hb0⟩

/-- The log gains one event where SOD changes, and none otherwise (R267). -/
theorem sodChange_append (x y : Bool) (log : List BusEvent) :
    sodChange x y ++ log = if y = x then log else .sod y :: log := by
  unfold sodChange
  by_cases h : x = y
  · rw [if_pos h, if_pos h.symm]
    rfl
  · rw [if_neg h, if_neg (Ne.symm h)]
    rfl

/-- Settles O33: each part of SIM is a choice by its enable bit. -/
theorem setInterruptMask : Obligations.SetInterruptMask := by
  unfold Obligations.SetInterruptMask
  intro s
  refine ⟨_, .of_mem rfl rfl, ?_, ?masks, ?r75, ?sod⟩
  · simp only [sodChange_append]
  case masks => cases s.regs.a.getLsbD 3 <;> simp
  case r75 => cases s.regs.a.getLsbD 4 <;> simp
  case sod => cases s.regs.a.getLsbD 6 <;> simp

end Sys2Proof.Machine
end

-- What a boundary accepts.
section
/-! The priority of requests, and the acceptance of TRAP, RST 7.5, RST 6.5 and RST 5.5 where the outside keeps still
(spec 60_exceptions.md R300 to R319). -/

namespace Sys2Proof.Machine

variable {s : State}

/-- Settles O34: every instruction completes. -/
theorem everyInstructionCompletes : Obligations.EveryInstructionCompletes := by
  unfold Obligations.EveryInstructionCompletes
  intro i s
  obtain ⟨t, ht, -⟩ := exec_completes i s
  exact ⟨t, ht⟩

/-- A level-sensitive request stands where the pin is driven high (R307, R308; log 17). -/
theorem asserted_iff (level : Option Bool) : asserted level = true ↔ level = some true := by
  revert level
  decide

/-- Settles O37: disabled or delayed, only TRAP is left; enabled, the requests are asked for in the same order. -/
theorem priority : Obligations.Priority := by
  unfold Obligations.Priority
  intro s
  by_cases hd : s.ctl.ie = false ∨ s.ctl.eiInh = true
  · rw [State.recognized_disabled hd, if_pos hd]
    simp only [Bool.and_eq_true]
  · have he : (s.ctl.ie && !s.ctl.eiInh) = true := by simpa using hd
    rw [if_neg hd, State.recognized, if_pos he]
    simp only [Bool.and_eq_true, Bool.not_eq_true', asserted_iff]

/-- TRAP is recognized by its flip-flop (R25, R313). -/
theorem State.recognized_trap (h : s.recognized = some (.restart .trap)) : s.ctl.trapFF = true := by
  unfold State.recognized at h
  split_ifs at h with ht <;> cases h
  exact (Bool.and_eq_true_iff.mp ht).1

/-- Accepting takes one draw where a saved enable status is still valid (R316; log 4). -/
theorem State.accepting_draws (s : State) (src : Restart) : (s.accepting src).draws = s.draws + s.ctl.tieV.toNat := by
  have hdisturb : (State.disturbTie { s with ctl := { s.ctl with halted := false } }).draws
      = s.draws + s.ctl.tieV.toNat := by
    obtain ⟨tie, -, hd⟩ := State.disturbTie_spec { s with ctl := { s.ctl with halted := false } }
    rw [hd]
  cases src with
  | trap => cases hv : s.ctl.tieV <;> simp [State.accepting, State.acknowledge, State.disturbTie, hv]
  | rst75 | rst65 | rst55 => exact hdisturb

/-- Settles O38: where the outside keeps still the step is the entry, its three machine cycles and `accepting`. -/
theorem restartEntry : Obligations.RestartEntry := by
  unfold Obligations.RestartEntry
  intro s src hq hr
  have hp : s.pastBoundary.Undisturbed := hq
  have hentry := State.enterRestart_quiet hp src
  refine ⟨s.pastBoundary.enterRestart src, ?_, ?_, ?_, fun hv => ?_, ?_, rfl⟩
  · rw [step_quiet hq, State.boundary_restart hr, finish_next]
    rw [hentry]
    exact hq.2.1
  · rw [hentry, State.accepting_draws, State.accepting_ctl]
    cases src <;> simp [State.pastBoundary, Restart.address, State.poke]
  · exact .of_mem (word_push_addresses_ne s.sp) (by rw [hentry]; rfl)
  · rw [hentry]
    split
    · next h =>
      subst h
      exact State.accepting_trap_tie (s := s.pastBoundary) hv
    · next h => exact State.accepting_tie (s := s.pastBoundary) src h hv
  · rintro rfl ht
    have hff := State.recognized_trap ht
    rw [hentry, State.accepting_ctl] at hff
    cases hff

/-- Settles O39: the entry of TRAP leaves TIEV 1, TIE as IE was, and IE 0; the first RIM clears TIEV. -/
theorem firstRimAfterTrap : Obligations.FirstRimAfterTrap := by
  unfold Obligations.FirstRimAfterTrap
  intro s hq hv hr
  obtain ⟨t, hstep, ht, -, htie, -⟩ := restartEntry s .trap hq hr
  obtain ⟨u, ⟨hfirst, -⟩, hu, -, -, -, -, hu3, -⟩ := readInterruptMask t
  obtain ⟨v, ⟨hsecond, -⟩, -, -, -, -, -, hv3, -⟩ := readInterruptMask u
  have htv : t.ctl.tieV = true := by
    rw [ht]
    exact Bool.or_true _
  have htie : t.ctl.tie = s.ctl.ie := htie hv
  have huv : u.ctl.tieV = false := by rw [hu]
  have huie : u.ctl.ie = false := by rw [hu, ht]
  refine ⟨t, u, v, hstep, hfirst, hsecond, ?_, ?_⟩
  · rw [hu3, if_pos htv, htie]
  · rw [hv3, if_neg (by simp [huv]), huie]

end Sys2Proof.Machine
end

-- INTR.
section
/-! The acceptance of INTR where the outside keeps still: the acknowledge cycles and the RST n or CALL supplied
(spec 60_exceptions.md R316, R318; 20_memory.md R49). -/

namespace Sys2Proof.Machine

variable {s d : State} {c : Control} {b : List BusEvent} {i : Instr} {target : Word} {tie : Bool} {op : Byte}

/-- A read of the responder leaves a state that differed from `s` in its count of draws only as it was in this (D7). -/
theorem State.readResponder_drawsOnly (h : d = { s with draws := d.draws }) (k : AckCycle) :
    (d.readResponder k).2 = { s with draws := (d.readResponder k).2.draws } := by
  have hread : (d.readResponder k).2 = { d with draws := (d.readResponder k).2.draws } := by
    rw [State.readResponder, State.dataBus_state]
  exact hread.trans (congrArg (fun u : State => { u with draws := (d.readResponder k).2.draws }) h)

/-- What the responder drives depends neither on the control bits nor on the log. -/
theorem State.readResponder_withCtlBus (d : State) (c : Control) (b : List BusEvent) (k : AckCycle) :
    State.readResponder { d with ctl := c, bus := b } k
      = ((d.readResponder k).1, { (d.readResponder k).2 with ctl := c, bus := b }) := by
  simp only [State.readResponder]
  cases d.platform.responder.byte k <;> rfl

/-- An acknowledge cycle where the outside keeps still, in terms of the state `d` before any of them (R49). -/
theorem State.intaRead_withCtlBus (hq : State.Undisturbed { d with ctl := c, bus := b }) (k : AckCycle) :
    State.intaRead { d with ctl := c, bus := b } k
      = ((d.readResponder k).1,
          { (d.readResponder k).2 with ctl := c, bus := .intAck (d.readResponder k).1 :: b }) := by
  rw [State.intaRead_quiet hq, State.readResponder_withCtlBus]

/-- The first acknowledge cycle of INTR and the instruction it supplies, unless RESET IN ends it (R318, R352). -/
def State.acknowledgeIntr (s : State) : Result :=
  if (s.intaRead .first).2.resetting then .next (s.intaRead .first).2
  else (s.intaRead .first).2.runInserted (s.intaRead .first).1

/-- Without RESET IN the instruction supplied runs (R318). -/
theorem State.acknowledgeIntr_runs {u : State} (h : s.intaRead .first = (op, u)) (hr : u.resetting = false) :
    s.acknowledgeIntr = u.runInserted op := by
  rw [State.acknowledgeIntr, h]
  exact if_neg (by simp [hr])

/-- Accepting INTR: a saved enable status that is valid takes one draw, and the acknowledge runs (R316, R318). -/
theorem State.acceptIntr_eq (s : State) :
    ∃ tie, (s.ctl.tieV = false → tie = s.ctl.tie)
      ∧ s.acceptIntr = (s.acceptingIntr tie (s.draws + s.ctl.tieV.toNat)).acknowledgeIntr := by
  obtain ⟨tie, htie, hdisturb⟩ := State.disturbTie_spec { s with ctl := { s.ctl with halted := false } }
  refine ⟨tie, htie, congrArg State.acknowledgeIntr ?_⟩
  rw [hdisturb]
  rfl

/-- The control bits once INTR is accepted: out of the halt state, interrupts disabled, EIINH read and cleared; `tie` is the
saved enable status (R310, R316, R318). -/
def Control.acceptedIntr (c : Control) (tie : Bool) : Control :=
  { c with halted := false, ie := false, eiInh := false, tie := tie }

/-- A step that recognizes INTR where the outside keeps still: the first acknowledge cycle, then what was supplied (R318). -/
theorem step_intr (hq : s.Undisturbed) (hr : s.recognized = some .intr) :
    let op := State.readResponder { s with draws := s.draws + s.ctl.tieV.toNat } .first
    ∃ tie, (s.ctl.tieV = false → tie = s.ctl.tie) ∧
      step s = finish (State.runInserted
        { op.2 with ctl := s.ctl.acceptedIntr tie, bus := .intAck op.1 :: s.bus } op.1) := by
  intro op
  obtain ⟨tie, htie, haccept⟩ := s.pastBoundary.acceptIntr_eq
  have hcycle : (s.pastBoundary.acceptingIntr tie (s.draws + s.ctl.tieV.toNat)).intaRead .first
      = (op.1, { op.2 with ctl := s.ctl.acceptedIntr tie, bus := .intAck op.1 :: s.bus }) :=
    State.intaRead_withCtlBus (d := { s with draws := s.draws + s.ctl.tieV.toNat }) (c := s.ctl.acceptedIntr tie)
      (b := s.bus) hq .first
  have hreset : op.2.resetting = false := by
    rw [State.readResponder_resetting]
    exact hq.2.1
  refine ⟨tie, htie, ?_⟩
  rw [step_quiet hq, State.boundary_intr hr, haccept]
  exact congrArg finish (State.acknowledgeIntr_runs hcycle hreset)

/-- RST n supplied (R318). -/
theorem State.runInserted_rst (h : op &&& 0xC7 = 0xC7) (s : State) :
    s.runInserted op = exec (.rst (midField op).toNat) s := by
  rw [State.runInserted, if_pos h]

/-- CALL supplied: its address takes two more acknowledge cycles, the low-order byte first (R318). -/
theorem State.runInserted_call (hq : State.Undisturbed { d with ctl := c, bus := b }) :
    let lo := d.readResponder .second
    let hi := lo.2.readResponder .third
    State.runInserted { d with ctl := c, bus := b } 0xCD
      = exec (.call (joinBytes hi.1 lo.1)) { hi.2 with ctl := c, bus := .intAck hi.1 :: .intAck lo.1 :: b } := by
  intro lo hi
  have hlo : State.Undisturbed { lo.2 with ctl := c, bus := .intAck lo.1 :: b } := by
    simpa [State.Undisturbed, lo] using hq
  rw [State.runInserted, if_neg (by decide), if_pos rfl]
  simp only [State.intaRead_withCtlBus hq]
  rw [State.intaRead_withCtlBus hlo]

/-- Anything else is refused (R318, D18). -/
theorem State.runInserted_other (h : op &&& 0xC7 ≠ 0xC7) (h' : op ≠ 0xCD) (s : State) :
    s.runInserted op = .refused (.intaNotRestartOrCall op) := by
  rw [State.runInserted, if_neg h, if_neg h']

/-- The restart address 8 n stands in bits 5 to 3 of RST n (R71, R173). -/
theorem restart_address : ∀ op : Byte, BitVec.ofNat 16 (8 * (midField op).toNat) = joinBytes 0 (op &&& 0x38) := by
  decide

/-- A step that accepted INTR and was supplied an instruction that calls: the `pc` that was not incremented is pushed
(R318, R319). -/
theorem step_intr_calls (hq : s.Undisturbed) (hd : d = { s with draws := d.draws })
    (htie : s.ctl.tieV = false → tie = s.ctl.tie) (hcalls : ∀ u : State, u.Undisturbed → CallsTo i u target)
    (hstep : step s = finish (exec i { d with ctl := s.ctl.acceptedIntr tie, bus := b })) :
    ∃ t, step s = .next t
      ∧ t = { s with
          sp := s.sp - 2
          pc := target
          ctl := { s.ctl with halted := false, ie := false, eiInh := false, tie := t.ctl.tie }
          mem := t.mem
          bus := .memWrite (s.sp - 2) (loByte s.pc) :: .memWrite (s.sp - 1) (hiByte s.pc) :: b
          draws := d.draws }
      ∧ StoresTwo s t (s.sp - 1) (hiByte s.pc) (s.sp - 2) (loByte s.pc)
      ∧ (s.ctl.tieV = false → t.ctl.tie = s.ctl.tie) := by
  obtain ⟨t, hexec, ht, hstores⟩ :=
    hcalls { s with ctl := s.ctl.acceptedIntr tie, bus := b, draws := d.draws } hq
  rw [hd] at hstep
  have hctl : t.ctl = s.ctl.acceptedIntr tie := by rw [ht]
  refine ⟨t, ?_, ?_, hstores, fun hv => by rw [hctl]; exact htie hv⟩
  · rw [hstep, hexec, finish_next]
    rw [ht]
    exact hq.2.1
  · rw [hctl]
    exact ht

/-- Settles O40: one acknowledge cycle, then RST n. -/
theorem intrWithRestart : Obligations.IntrWithRestart := by
  unfold Obligations.IntrWithRestart
  intro s hq hr d op hop
  obtain ⟨tie, htie, hstep⟩ := step_intr hq hr
  rw [State.runInserted_rst hop] at hstep
  refine step_intr_calls hq (State.readResponder_drawsOnly (d := d) rfl .first) htie (fun u hu => ?_) hstep
  exact .of_callTo hu (by rw [← restart_address]; rfl)

/-- What `INTA_RESPONDER` gives for the number of the cycle is what the cycle finds driven (D7). -/
theorem State.readResponder_eq (s : State) (k : AckCycle) :
    s.readResponder k = s.dataBus (match k with
      | .first => s.platform.responder.first
      | .second => s.platform.responder.second
      | .third => s.platform.responder.third) := by
  cases k <;> rfl

/-- Settles O41: CALL takes two more acknowledge cycles; other bytes are refused; each cycle reads what the responder drives or
one free byte. -/
theorem intrWithCallOrOther : Obligations.IntrWithCallOrOther := by
  unfold Obligations.IntrWithCallOrOther
  constructor
  · intro s hq hr d op lo hi
    obtain ⟨tie, htie, hstep⟩ := step_intr hq hr
    refine ⟨fun hop => ?_, fun hrst hcall => ?_⟩
    · have hop2 : op.2 = { s with draws := op.2.draws } := State.readResponder_drawsOnly (d := d) rfl .first
      have hlo2 : lo.2 = { s with draws := lo.2.draws } := State.readResponder_drawsOnly hop2 .second
      have hcycles : State.Undisturbed { op.2 with ctl := s.ctl.acceptedIntr tie, bus := .intAck 0xCD :: s.bus } := by
        rw [hop2]
        exact hq
      have hstep : step s = finish (State.runInserted
          { op.2 with ctl := s.ctl.acceptedIntr tie, bus := .intAck 0xCD :: s.bus } 0xCD) := hop ▸ hstep
      rw [State.runInserted_call hcycles] at hstep
      exact step_intr_calls hq (State.readResponder_drawsOnly hlo2 .third) htie (fun _ hu => .of_callTo hu rfl) hstep
    · rw [hstep, State.runInserted_other hrst hcall]
      rfl
  · intro d k driven
    have hread : d.readResponder k = d.dataBus driven := d.readResponder_eq k
    rw [hread]
    refine ⟨fun v hv => ?_, fun hv => ?_⟩
    · rw [hv, State.dataBus_driven]
    · rw [State.dataBus_state, hv]
      rfl

end Sys2Proof.Machine
end

-- Reset inside an instruction.
section
/-! RESET IN in the slot of a machine cycle, in the hold after it, and in any slot of an instruction or of a step
(spec 70_reset_and_hazards.md R352, R353; 20_memory.md R46). -/

namespace Sys2Proof.Machine

variable {s t u : State} {events : List EnvEvent} {rest : List (List EnvEvent)}

/-- The state once RESET IN opens the coming slot: RAM that loses its contents has lost them, RESET OUT is high, and what was
scripted after it waits (R351, R353). -/
def State.resetArrived (s : State) (env : List (List EnvEvent)) : State :=
  { s.resetMemory with env := env, resetting := true, bus := .resetOut :: s.bus }

theorem State.takeSlot_resetIn (h : s.env = (.resetIn :: events) :: rest) :
    s.takeSlot = s.resetArrived (events :: rest) := by
  rw [State.takeSlot, h]
  rfl

/-- While RESET IN is under way the CPU waits for no bus (R352). -/
theorem State.sitOutHold_resetting (h : s.resetting = true) (slots : List (List EnvEvent)) : s.sitOutHold slots = s := by
  unfold State.sitOutHold
  simp [h]

theorem State.awaitBus_resetting (h : s.resetting = true) : s.awaitBus = s := State.sitOutHold_resetting h s.env

/-- RESET IN ends a hold that the CPU waits out (R335, R352). -/
theorem State.awaitBus_resetIn (hr : s.resetting = false) (hf : s.ctl.hldaFF = true)
    (h : s.env = (.resetIn :: events) :: rest) : s.awaitBus = s.resetArrived (events :: rest) := by
  have hwait : s.awaitBus = (s.resetArrived (events :: rest)).sitOutHold rest := by
    rw [State.awaitBus, h, State.sitOutHold, if_pos (by simp [hr, hf])]
    rfl
  rw [hwait, State.sitOutHold_resetting rfl]

@[simp] theorem State.grantHold_resetting (s : State) : s.grantHold.resetting = s.resetting := by
  unfold State.grantHold
  split <;> rfl

@[simp] theorem State.grantHold_peek (s : State) (a : Word) : s.grantHold.peek a = s.peek a := by
  unfold State.grantHold
  split <;> rfl

@[simp] theorem State.blurWrite_resetting (s : State) (a : Word) : (s.blurWrite a).resetting = s.resetting := by
  unfold State.blurWrite
  split <;> rfl

/-- A write that RESET IN interrupts leaves every other address alone (R352). -/
theorem State.blurWrite_peek_other (s : State) {a x : Word} (hx : x ≠ a) : (s.blurWrite a).peek x = s.peek x := by
  unfold State.blurWrite
  split
  · exact State.peek_poke_other s.draw8.2 a x _ hx
  · rfl

/-- A MEMORY WRITE of a CPU that has the bus (R46). -/
theorem State.memWrite_of_bus (hr : s.resetting = false) (hf : s.ctl.hldaFF = false) (a : Word) (v : Byte) :
    s.memWrite a v = (((s.poke a v).runCycle (.memWrite a v)).blurWrite a).grantHold := by
  simp only [State.memWrite, State.awaitBus_of_bus hf, hr, Bool.false_eq_true, if_false]

/-- RESET IN in the slot of a MEMORY WRITE: only the byte at its address, and RAM that loses its contents, can have changed
(R352, R353). -/
theorem State.memWrite_resetIn (hr : s.resetting = false) (hf : s.ctl.hldaFF = false)
    (h : s.env = (.resetIn :: events) :: rest) (a : Word) (v : Byte) :
    (s.memWrite a v).resetting = true ∧ (s.memWrite a v).bus = .resetOut :: .memWrite a v :: s.bus
      ∧ ∀ x : Word, x ≠ a → s.losesAt x = false → (s.memWrite a v).peek x = s.peek x := by
  have hcycle : (s.poke a v).runCycle (.memWrite a v)
      = State.resetArrived { s.poke a v with bus := .memWrite a v :: s.bus } (events :: rest) :=
    State.takeSlot_resetIn h
  rw [State.memWrite_of_bus hr hf, hcycle]
  refine ⟨?_, ?_, fun x hx hkeeps => ?_⟩
  · rw [State.grantHold_resetting, State.blurWrite_resetting]
    rfl
  · rw [State.grantHold_bus, State.blurWrite_bus]
    rfl
  · rw [State.grantHold_peek, State.blurWrite_peek_other _ hx]
    exact ((s.poke a v).resetMemory_kept hkeeps).trans (s.peek_poke_other a x v hx)

/-- The same of a CPU that may have to wait for the bus first: then RESET IN comes before the write, which does not run. -/
theorem State.memWrite_resetIn_any (hr : s.resetting = false) (h : s.env = (.resetIn :: events) :: rest) (a : Word)
    (v : Byte) :
    (s.memWrite a v).resetting = true
      ∧ ∀ x : Word, x ≠ a → s.losesAt x = false → (s.memWrite a v).peek x = s.peek x := by
  cases hf : s.ctl.hldaFF
  · obtain ⟨hreset, -, hkept⟩ := State.memWrite_resetIn hr hf h a v
    exact ⟨hreset, hkept⟩
  · have hwrite : s.memWrite a v = s.resetArrived (events :: rest) := by
      rw [State.memWrite, State.awaitBus_resetIn hr hf h]
      rfl
    rw [hwrite]
    exact ⟨rfl, fun x _ hkeeps => s.resetMemory_kept hkeeps⟩

/-- A hold requested in the slot of a MEMORY WRITE and RESET IN in the first slot of that hold: the write was complete
(R46, R59). -/
theorem State.memWrite_then_resetIn (hr : s.resetting = false) (hf : s.ctl.hldaFF = false) {a : Word}
    (hk : s.kindAt a = .ram) (hkeeps : s.losesAt a = false)
    (h : s.env = [.pin .hold true] :: (.resetIn :: events) :: rest) (v : Byte) :
    (s.memWrite a v).awaitBus.resetting = true ∧ (s.memWrite a v).awaitBus.peek a = v := by
  have hcycle : (s.poke a v).runCycle (.memWrite a v)
      = State.setPin { s.poke a v with bus := .memWrite a v :: s.bus, env := (.resetIn :: events) :: rest } .hold true := by
    rw [State.runCycle, State.takeSlot]
    simp only [State.poke_env, h]
    rfl
  have hwrite : s.memWrite a v = { s.poke a v with
      bus := .memWrite a v :: s.bus, env := (.resetIn :: events) :: rest
      pins := { s.pins with hold := true }, ctl := { s.ctl with hldaFF := true } } := by
    rw [State.memWrite_of_bus hr hf, hcycle]
    simp [State.blurWrite, State.setPin, hr, State.grantHold]
  have hhold : (s.memWrite a v).awaitBus = (s.memWrite a v).resetArrived (events :: rest) :=
    State.awaitBus_resetIn (by rw [hwrite]; exact hr) (by rw [hwrite]) (by rw [hwrite])
  rw [hhold]
  refine ⟨rfl, ?_⟩
  have hpeek : (s.memWrite a v).peek a = v := by
    rw [hwrite]
    exact s.peek_poke_ram a v hk
  exact (State.resetMemory_kept _ (by rw [hwrite]; exact hkeeps)).trans hpeek

/-- Once RESET IN has come no machine cycle runs: writes and idle cycles do nothing, a read takes a free value (R352). -/
theorem no_cycle_while_resetting (h : t.resetting = true) :
    (∀ a v, t.memWrite a v = t) ∧ (∀ p v, t.ioWrite p v = t) ∧ (∀ c, t.busIdle c = t)
      ∧ (∀ a, (t.opcodeFetch a).2 = t.draw8.2 ∧ (t.memRead a).2 = t.draw8.2)
      ∧ (∀ p, (t.ioRead p).2 = t.draw8.2) ∧ ∀ k, (t.intaRead k).2 = t.draw8.2 := by
  simp only [State.memWrite, State.ioWrite, State.busIdle, State.opcodeFetch, State.memRead, State.ioRead, State.intaRead,
    State.awaitBus_resetting h, h, if_true, implies_true, and_self]

/-- An instruction leaves the RESET IN to come alone, or is abandoned by one. -/
theorem exec_resets {i : Instr} (h : exec i s = .next t) (hne : resetsToCome t.env ≠ resetsToCome s.env) :
    t.resetting = true := by
  cases hr : t.resetting
  · exact absurd ((exec_writesOnly h).resets hr) hne
  · rfl

/-- So does a boundary, whatever it accepts or runs. -/
theorem State.boundary_resets (h : u.boundary = .next t) (hr : t.resetting = false) :
    resetsToCome t.env = resetsToCome u.env := by
  rcases State.boundary_effect h with ⟨src, -, hw⟩ | ⟨-, tie, n, hw⟩ | ⟨-, rfl | rfl⟩ | ⟨-, -, hw | ⟨i, -, hw⟩⟩
  · rw [hw.resets hr, State.accepting_state]
    rfl
  · exact hw.resets hr
  · rfl
  · rfl
  · exact hw.resets hr
  · exact ((WritesOnly.fetch i u.pastBoundary).trans (exec_writesOnly hw)).resets hr

/-- A step in which RESET IN comes, in whatever slot, ends in the reset state (R352). -/
theorem step_resets (h : step s = .next t) (hne : resetsToCome t.env ≠ resetsToCome s.env) :
    ∃ w : State, t = w.afterReset := by
  rcases step_cases h with ⟨-, ht⟩ | ⟨hslot, w, hb, ⟨-, ht⟩ | ⟨hr, rfl⟩⟩
  · exact ⟨_, ht⟩
  · exact ⟨w, ht⟩
  · exact absurd ((State.boundary_resets hb hr).trans ((OutsideOnly.boundarySlot s).resets hslot)) hne

/-- Settles O47: the write with RESET IN in its slot, in the hold after it and before it; then the frames of every instruction
and of every step. -/
theorem resetDuringWrite : Obligations.ResetDuringWrite := by
  unfold Obligations.ResetDuringWrite
  refine ⟨?_, ?_, ?_, ?_, ?_, ?_⟩
  · exact fun s a v events rest hr hf h => State.memWrite_resetIn hr hf h a v
  · exact fun s a v events rest hr hf hk hkeeps h => State.memWrite_then_resetIn hr hf hk hkeeps h v
  · intro t h
    obtain ⟨hwrite, hio, hidle, hread, hport, hack⟩ := no_cycle_while_resetting h
    exact ⟨hwrite, hio, hidle, hread, hport, hack, finish_reset h⟩
  · intro s src events rest h hr
    obtain ⟨hreset, hkept⟩ := State.memWrite_resetIn_any hr h s.hl (s.getReg src)
    exact ⟨_, rfl, hreset, hkept, finish_reset hreset, rfl, rfl⟩
  · exact fun i s t h => ⟨(exec_writesOnly h).memory, exec_resets h⟩
  · intro s t h hne
    obtain ⟨w, rfl⟩ := step_resets h hne
    exact ⟨rfl, rfl, rfl⟩

end Sys2Proof.Machine
end
